-- ==== Sys2Proof/Word.lean ====
section
/-! DEFINITION. The word types of the wire: a byte, and the two-byte field (spec chapter 11, R155, R179). -/

namespace Sys2Proof

/-- One byte on the wire, most significant bit first (R155). -/
abbrev Byte := BitVec 8

/-- A two-byte field (tag, serial, lifetime, value), sent most significant byte first. -/
abbrev Half := BitVec 16

end Sys2Proof
end

