-- ==== Sys2Proof/Config.lean ====
section
/-! DEFINITION. The fixed quantities of the part (spec chapter 00, Principal Quantities). The spec leaves no value
of this part open to an implementation, so there is no free value here; what the model itself fixes is in
notes/assumptions. -/

namespace Sys2Proof.Config

/-- Cells in the pool (R1). -/
abbrev cellCount : Nat := 1024
/-- Bytes in one cell (R2). -/
abbrev cellBytes : Nat := 32
/-- Message records (R44). -/
abbrev recordCount : Nat := 256
/-- Records one source may hold that are not FREE (R42). -/
abbrev quota : Nat := 96
/-- Greatest sum of the eight reserve sizes (R4). -/
abbrev reserveSumMax : Nat := 896
/-- Greatest sum of the two reserves of one port (R4), and greatest requested size (R14). -/
abbrev reservePortMax : Nat := 256
/-- A receipt is admitted while the queue holds fewer notices than this (R96). -/
abbrev noticeThreshold : Nat := 28
/-- Greatest declared length (R47). -/
abbrev declaredMax : Nat := 4096
/-- Greatest intake limit (R71). -/
abbrev limitMax : Nat := 128
/-- Greatest fetch bias and greatest streak (R76, R172). -/
abbrev biasMax : Nat := 15
/-- Intake limit after reset (R69). -/
abbrev limitReset : Nat := 64
/-- Fetch bias after reset (R135). -/
abbrev biasReset : Nat := 4
/-- TICK code after reset (R141). -/
abbrev tickReset : Nat := 1
/-- GUARD after reset (R141). -/
abbrev guardReset : Nat := 16
/-- DEFLIFE after reset (R141). -/
abbrev deflifeReset : Nat := 0
/-- Ticks a proposal may stay pending (R142). -/
abbrev agreementTicks : Nat := 32
/-- The lifetime argument that means no lifetime (R110). -/
abbrev noLifetime : Nat := 65535
/-- Greatest transition count of a PEER notice (R98). -/
abbrev transitionsMax : Nat := 255

end Sys2Proof.Config
end

