-- ==== Sys2Proof/Syntax.lean ====
section
/-! DEFINITION. The commands and events of the part, one constructor for each row of spec/opcode_table.json.

A row that is a command of a host is the event at which that command is taken on its port (R157): the command byte
for a command without argument bytes, the last argument byte otherwise. The earlier bytes of the transaction are the
row ARGUMENT_BYTE_RECEIVED and stand collected in the state, so the operand of a row with arguments is its last byte. -/

namespace Sys2Proof

/-- The four host ports. -/
inductive Port where
  | p0 | p1 | p2 | p3
  deriving DecidableEq, Repr

/-- The three owners a tick reaches (R108), the lease counter port by port. The spec fixes no order among them
(R108, R119, R153), so a tick carries the order in which its consequences are taken. -/
inductive TickTask where
  /-- The Message Table's expiries of the tick, as one group (R115). -/
  | messages
  /-- The lease expiry of one port (R119). -/
  | lease (p : Port)
  /-- The timeout of the pending proposal (R149). -/
  | proposal
  deriving DecidableEq, Repr

/-- One constructor per row of the table of operations and events. `clocks` is the number of clocks since the last
whole byte of the transaction (R155, R163). -/
inductive Instr where
  /-- STATUS (R173), taken at the command byte 0x10. -/
  | status (p : Port)
  /-- ATTACH (R124), taken at the command byte 0x11. -/
  | attach (p : Port)
  /-- DETACH (R126), taken at the command byte 0x12. -/
  | detach (p : Port)
  /-- SETPORT (R172), taken at its fourth argument byte, the cause mask. -/
  | setport (p : Port) (mask : Byte)
  /-- CLEAR (R171), taken at its argument byte, the item set. -/
  | clear (p : Port) (items : Byte)
  /-- RESERVE (R14), taken at its third argument byte, the low byte of the requested size. -/
  | reserve (p : Port) (sizeLow : Byte)
  /-- OPEN (R48), taken at its ninth argument byte, the low byte of the tag. -/
  | openMsg (p : Port) (tagLow : Byte)
  /-- PUT (R56), taken at its count byte, which holds the count less one. -/
  | put (p : Port) (count : Byte)
  /-- One data byte of a PUT (R57). -/
  | putDataByte (p : Port) (b : Byte)
  /-- SEAL (R61), taken at the command byte 0x23. -/
  | sealMsg (p : Port)
  /-- CANCEL (R65), taken at the command byte 0x24. -/
  | cancel (p : Port)
  /-- FETCH (R75), taken at the command byte 0x30. -/
  | fetch (p : Port)
  /-- GET (R79), taken at its argument byte, which holds the maximum count less one. -/
  | get (p : Port) (max : Byte)
  /-- One promised payload byte of a GET completes its eighth clock (R162). -/
  | getPayloadByte (p : Port)
  /-- RELEASE (R83), taken at its argument byte, the disposition. -/
  | release (p : Port) (disposition : Byte)
  /-- FORWARD (R86), taken at its argument byte, the destination mask. -/
  | forward (p : Port) (dests : Byte)
  /-- NOTICE (R101), taken at the command byte 0x40. -/
  | notice (p : Port)
  /-- PROPOSE (R143), taken at its third argument byte, the low byte of the value. -/
  | propose (p : Port) (valueLow : Byte)
  /-- ENDORSE (R145), taken at its third argument byte, the low byte of the value. -/
  | endorse (p : Port) (valueLow : Byte)
  /-- DECLINE (R146), taken at its argument byte, the setting code. -/
  | decline (p : Port) (setting : Byte)
  /-- INSPECT of kind MESSAGE (R175), taken at its second argument byte, the message id. -/
  | inspectMessage (p : Port) (id : Byte)
  /-- INSPECT of kind POOL (R177), taken at its second argument byte, which is not used. -/
  | inspectPool (p : Port) (id : Byte)
  /-- INSPECT of kind SETTINGS (R178), taken at its second argument byte, which is not used. -/
  | inspectSettings (p : Port) (id : Byte)
  /-- A command byte that names no command (R157). -/
  | badcmd (p : Port) (b : Byte)
  /-- Select falls (R156). -/
  | selectFall (p : Port)
  /-- Select rises, `clocks` clocks after the last whole byte (R163). -/
  | selectRise (p : Port) (clocks : Nat)
  /-- The port reset line falls, `clocks` clocks after the last whole byte (R127, R165). -/
  | portResetFall (p : Port) (clocks : Nat)
  /-- The port reset line rises (R165). -/
  | portResetRise (p : Port)
  /-- RSTn falls (R166). -/
  | chipReset
  /-- RSTn rises (R140). -/
  | chipResetRelease
  /-- The end of a tick interval (R108). `order` names the owners whose consequences are taken first, in that order. -/
  | tick (order : List TickTask)
  /-- The lifetime of OPEN record `id` has reached 0 (R112). -/
  | expiryOfOpenRecord (id : Nat)
  /-- The lifetime of SEALED record `id` has reached 0 (R113). -/
  | expiryOfSealedRecord (id : Nat)
  /-- The lease counter of the port has reached 0 (R119). -/
  | leaseExpiry (p : Port)
  /-- The remaining ticks of the proposal have reached 0 (R149). -/
  | proposalTimeout
  /-- The purge of a departing port completes (R132). -/
  | teardownCompletion (p : Port)
  /-- The posting check of the port's backlog (R102). -/
  | receiptPosting (p : Port)
  /-- A command byte that names a command with argument bytes, or an argument byte that is not the last (R154). -/
  | argumentByteReceived (p : Port) (b : Byte)
  /-- A reply byte other than a payload byte completes its eighth clock (R155). -/
  | replyByteShiftedOut (p : Port)
  /-- INSPECT with a kind code that names no kind (R174), taken at its second argument byte. -/
  | inspectInvalidKind (p : Port) (id : Byte)
  deriving DecidableEq, Repr

end Sys2Proof
end

