-- ==== Sys2Proof/Machine/State.lean ====
section
/-! DEFINITION. The state of the part as plain data, what can stop a step, and the state after chip reset.
Each type names the block of the spec that owns what it holds. -/

namespace Sys2Proof.Machine

open Sys2Proof

/-- One value for each of the four ports. -/
structure PerPort (α : Type) where
  p0 : α
  p1 : α
  p2 : α
  p3 : α
  deriving DecidableEq, Repr

/-- A set of ports (spec chapter 00, Conventions). -/
abbrev PortSet := PerPort Bool

/-- The payload store: (address, byte) pairs, address = 32 * cell + byte within the cell (R2). -/
abbrev Memory := List Host.Cell

/-- Message class. -/
inductive Cls where
  | express | bulk
  deriving DecidableEq, Repr

/-- The port states (R122). -/
inductive PortMode where
  | detached | attached | teardown
  deriving DecidableEq, Repr

/-- Last teardown cause (R128). -/
inductive TeardownCause where
  | chipReset | detach | portReset | lease
  deriving DecidableEq, Repr

/-- Transaction phases (R154). -/
inductive Phase where
  | idle | command | argument | data | reply | ignore | blocked | held
  deriving DecidableEq, Repr

/-- Reply status codes (R180). -/
inductive Status where
  | ok | wait | endOfMessage | trunc | empty | state | busy | range | quota | table | nodest | full | nospace
  | noopen | nofetch | overlen | expired | mismatch | notreq | denied | badcmd
  deriving DecidableEq, Repr

/-- The deposit context of a port (R45). A LAPSED context keeps the deposited length at the expiry (R114). -/
inductive Deposit where
  | none
  | opened (id : Nat)
  | lapsed (id : Nat) (length : Nat)
  deriving DecidableEq, Repr

/-- The fetch context of a port that holds a message (R69). -/
structure FetchCtx where
  id : Nat
  offset : Nat
  awaiting : Bool
  deriving DecidableEq, Repr

/-- The five interrupt causes (R168). -/
inductive Cause where
  | arrival | notice | space | data | trunc
  deriving DecidableEq, Repr

/-- A set of causes: the causes that are set, or the mask's unmasked causes (R168, R169). -/
structure CauseSet where
  arrival : Bool
  notice : Bool
  space : Bool
  data : Bool
  trunc : Bool
  deriving DecidableEq, Repr

/-- An account: its size and its charged count (R3). -/
structure Account where
  size : Nat
  charged : Nat
  deriving DecidableEq, Repr

/-- A space-wait record: cells wanted and class (R18). -/
structure SpaceWait where
  cells : Nat
  cls : Cls
  deriving DecidableEq, Repr

/-- The account a record is charged to: its source's reserve of its class, or SHARED (R23). -/
inductive Charge where
  | reserve | shared
  deriving DecidableEq, Repr

/-- The outcome of a delivery (R33). -/
inductive Fate where
  | accepted | refused | expired | detached | aborted | truncated
  deriving DecidableEq, Repr

/-- The stage of a delivery; an outcome is present exactly when the stage is DONE (spec chapter 02, section 2.3). -/
inductive Stage where
  | claimed
  | queued
  | fetching
  | done (fate : Fate)
  deriving DecidableEq, Repr

/-- A delivery entry (spec chapter 02, section 2.3). -/
structure Entry where
  port : Port
  via : Option Port
  stage : Stage
  deriving DecidableEq, Repr

/-- The states of a record that is not FREE (R23). A FREE record is one the table does not list. -/
inductive RecState where
  | opened | sealed | aborted | reporting
  deriving DecidableEq, Repr

/-- Why a record was aborted (R28). -/
inductive AbortCause where
  | cancelled | expired | sourceLost
  deriving DecidableEq, Repr

/-- A message record that is not FREE, with the fields of R23. -/
structure Record where
  state : RecState
  source : Port
  serial : Half
  cls : Cls
  early : Bool
  receipt : Bool
  tag : Half
  declared : Nat
  deposited : Nat
  cells : List Nat
  account : Option Charge
  remaining : Option Nat
  expired : Bool
  abortCause : Option AbortCause
  deliveries : List Entry
  deriving DecidableEq, Repr

/-- The shared settings (R141). -/
inductive Setting where
  | tick | guard | deflife
  deriving DecidableEq, Repr

/-- The phases an AGREEMENT notice reports (R95). -/
inductive AgreementPhase where
  | proposed | adopted | declined | timedOut | withdrawn
  deriving DecidableEq, Repr

/-- One entry of the outcome list of a receipt (R93). -/
structure ReceiptEntry where
  port : Port
  via : Option Port
  fate : Option Fate
  deriving DecidableEq, Repr

/-- The contents of a RECEIPT (R93). -/
structure Receipt where
  id : Nat
  serial : Half
  tag : Half
  cls : Cls
  length : Nat
  abortCause : Option AbortCause
  outcomes : List ReceiptEntry
  deriving DecidableEq, Repr

/-- The contents of an AGREEMENT notice (R95). -/
structure AgreementInfo where
  phase : AgreementPhase
  setting : Setting
  value : Nat
  proposer : Port
  decliner : Option Port
  deriving DecidableEq, Repr

/-- One notice of a notice queue (R92 to R95). -/
inductive Notice where
  | receipt (r : Receipt)
  | peer (port : Port) (attached : Bool) (transitions : Nat)
  | agreement (a : AgreementInfo)
  deriving DecidableEq, Repr

/-- A PUT in progress: data bytes still to come, and what its reply will carry (R56 to R58). -/
structure PutCtx where
  left : Nat
  status : Status
  accepted : Nat
  overrun : Bool
  length : Nat
  deriving DecidableEq, Repr

/-- The transaction of a port, owned by its Port Controller (spec chapter 09). -/
structure Txn where
  phase : Phase
  /-- The summary byte captured at the falling select (R156). -/
  summary : Byte
  /-- The command byte and the argument bytes collected so far (R154). -/
  collected : List Byte
  /-- The composed reply (R160), without a GET's payload bytes. -/
  reply : List Byte
  /-- How many bytes of the composed reply have been shifted out. -/
  pos : Nat
  /-- Payload bytes a GET has promised and not yet shifted out (R162). -/
  payload : Nat
  put : PutCtx
  /-- The last whole byte shifted out on SDO in this transaction; none while there is none or SDO floats (R155). -/
  sdo : Option Byte
  deriving DecidableEq, Repr

/-- Everything the part holds for one port. -/
structure PortState where
  /-- SELn is high. -/
  selHigh : Bool
  /-- PRSTn is high. -/
  prstHigh : Bool
  /-- Port Controller. -/
  txn : Txn
  mode : PortMode
  lastCause : TeardownCause
  causes : CauseSet
  /-- The unmasked causes (R169). -/
  mask : CauseSet
  frameError : Bool
  bias : Nat
  leasePeriod : Nat
  deposit : Deposit
  /-- Time Base. -/
  leaseCounter : Nat
  /-- Delivery Queue Unit. -/
  express : List Nat
  bulk : List Nat
  intake : Nat
  limit : Nat
  streak : Nat
  fetch : Option FetchCtx
  /-- Notice Unit. -/
  notices : List Notice
  backlog : List Nat
  /-- Message Table. -/
  serial : Half
  /-- Cell Pool Manager. -/
  resExpress : Account
  resBulk : Account
  wait : Option SpaceWait
  deriving DecidableEq, Repr

/-- The pending proposal (R142). -/
structure Proposal where
  setting : Setting
  value : Nat
  proposer : Port
  required : PortSet
  endorsers : PortSet
  remaining : Nat
  deriving DecidableEq, Repr

/-- The state of the part, and the queue of commands and events that wait to be taken, first in first out. -/
structure State where
  pending : List Instr
  /-- RSTn is high. -/
  rstHigh : Bool
  ports : PerPort PortState
  /-- The records that are not FREE, ids strictly rising (R23). -/
  records : List (Nat × Record)
  freeList : List Nat
  mem : Memory
  /-- Charged count of SHARED; its size follows from the reserves (R4). -/
  sharedCharged : Nat
  tick : Nat
  guard : Nat
  deflife : Nat
  slot : Option Proposal
  /-- The TICK code of the tick interval in progress; none while RSTn is low (R108). -/
  interval : Option Nat
  deriving DecidableEq, Repr

/-- What stops the model in a state that no run from reset reaches. Each is safe: the model stops. -/
inductive Fault where
  /-- A deposit context, a fetch context or a queue names a record that is FREE. Raised by PUT data bytes, SEAL,
  CANCEL, FETCH, GET, GET payload bytes, RELEASE and FORWARD. Safe: R45 and R68 exclude such a state. -/
  | danglingRecord
  /-- A payload byte is written or read where the record has no cell, at a cell number outside 0 to 1023, or is read
  where nothing was ever written. Raised by PUT data bytes and GET payload bytes. Safe: R2 and R25 exclude it. -/
  | noPayloadByte
  deriving DecidableEq, Repr

/-- Why a command has no meaning in the state it meets. -/
inductive Refusal where
  /-- The instruction has no meaning in this model yet. Safe: the model stops. -/
  | notModelled (mnemonic : String)
  /-- The byte of this row completes in a phase, or after collected bytes, in which R154 makes its completion the
  event of another row (for example the byte of a command in the middle of another command's argument bytes). The
  event named cannot occur there. Raised by the rows of bytes. Safe: the model stops. -/
  | otherEvent
  deriving DecidableEq, Repr

/-- No cause. -/
def CauseSet.empty : CauseSet := ⟨false, false, false, false, false⟩

/-- No PUT in progress. -/
def PutCtx.idle : PutCtx := ⟨0, .ok, 0, false, 0⟩

/-- No transaction, in phase `ph`. -/
def Txn.quiet (ph : Phase) : Txn := ⟨ph, 0, [], [], 0, 0, PutCtx.idle, .none⟩

/-- The items of a port after chip reset (R135), with its select and port reset lines high. -/
def PortState.reset : PortState where
  selHigh := true
  prstHigh := true
  txn := Txn.quiet .idle
  mode := .detached
  lastCause := .chipReset
  causes := CauseSet.empty
  mask := CauseSet.empty
  frameError := false
  bias := Config.biasReset
  leasePeriod := 0
  deposit := .none
  leaseCounter := 0
  express := []
  bulk := []
  intake := 0
  limit := Config.limitReset
  streak := 0
  fetch := .none
  notices := []
  backlog := []
  serial := 0
  resExpress := ⟨0, 0⟩
  resBulk := ⟨0, 0⟩
  wait := .none

/-- The part right after chip reset, RSTn having risen with every select and port reset line high (R140). -/
def State.reset : State where
  pending := []
  rstHigh := true
  ports := ⟨PortState.reset, PortState.reset, PortState.reset, PortState.reset⟩
  records := []
  freeList := List.range Config.cellCount
  mem := []
  sharedCharged := 0
  tick := Config.tickReset
  guard := Config.guardReset
  deflife := Config.deflifeReset
  slot := .none
  interval := some Config.tickReset

end Sys2Proof.Machine
end

