-- ==== Sys2Proof/Machine/Ops.lean ====
section
/-! DEFINITION. Named operations over the state: the per-port items, the records of the Message Table, the payload
store, and the setting of a cause. -/

namespace Sys2Proof.Machine

open Sys2Proof

/-- The four ports in ascending order. -/
def allPorts : List Port := [.p0, .p1, .p2, .p3]

/-- The number of a port (R180). -/
def portNumber : Port → Nat
  | .p0 => 0
  | .p1 => 1
  | .p2 => 2
  | .p3 => 3

/-! ### Per-port values -/

def PerPort.get {α : Type} (v : PerPort α) : Port → α
  | .p0 => v.p0
  | .p1 => v.p1
  | .p2 => v.p2
  | .p3 => v.p3

def PerPort.set {α : Type} (v : PerPort α) (p : Port) (x : α) : PerPort α :=
  match p with
  | .p0 => { v with p0 := x }
  | .p1 => { v with p1 := x }
  | .p2 => { v with p2 := x }
  | .p3 => { v with p3 := x }

/-- The value `f p` at each port. -/
def PerPort.ofFn {α : Type} (f : Port → α) : PerPort α := ⟨f .p0, f .p1, f .p2, f .p3⟩

def PerPort.map {α β : Type} (f : α → β) (v : PerPort α) : PerPort β := PerPort.ofFn fun p => f (v.get p)

/-- The set with no port. -/
def noPorts : PortSet := PerPort.ofFn fun _ => false

/-- The set names no port. -/
def PortSet.isEmpty (v : PortSet) : Bool := allPorts.all fun p => !(v.get p)

/-! ### The ports of the part -/

def State.port (s : State) (p : Port) : PortState := s.ports.get p

def State.setPort (s : State) (p : Port) (q : PortState) : State := { s with ports := s.ports.set p q }

def State.modPort (s : State) (p : Port) (f : PortState → PortState) : State := s.setPort p (f (s.port p))

/-- The port is ATTACHED. -/
def State.attached (s : State) (p : Port) : Bool := (s.port p).mode == .attached

/-- The set of ATTACHED ports. -/
def State.attachedPorts (s : State) : PortSet := PerPort.ofFn s.attached

/-! ### Records -/

/-- The record listed under `id`; none when it is FREE. -/
def lookupRecord (id : Nat) : List (Nat × Record) → Option Record
  | [] => none
  | (k, r) :: rest => if k = id then some r else lookupRecord id rest

/-- The list with `id` holding `r`, in ascending order of id. -/
def insertRecord (id : Nat) (r : Record) : List (Nat × Record) → List (Nat × Record)
  | [] => [(id, r)]
  | (k, x) :: rest =>
    if id < k then (id, r) :: (k, x) :: rest
    else if id = k then (id, r) :: rest
    else (k, x) :: insertRecord id r rest

/-- The list with `id` FREE. -/
def removeRecord (id : Nat) (l : List (Nat × Record)) : List (Nat × Record) := l.filter fun e => e.1 ≠ id

def State.record? (s : State) (id : Nat) : Option Record := lookupRecord id s.records

def State.putRecord (s : State) (id : Nat) (r : Record) : State := { s with records := insertRecord id r s.records }

/-- Record `id` becomes FREE. -/
def State.freeRecord (s : State) (id : Nat) : State := { s with records := removeRecord id s.records }

/-- Change record `id`, if it is not FREE. -/
def State.modRecord (s : State) (id : Nat) (f : Record → Record) : State :=
  match s.record? id with
  | none => s
  | some r => s.putRecord id (f r)

/-- Change every record that is not FREE. -/
def State.mapRecords (s : State) (f : Record → Record) : State :=
  { s with records := s.records.map fun e => (e.1, f e.2) }

/-- The ids of the records that satisfy `c`, ascending. -/
def State.recordIds (s : State) (c : Record → Bool) : List Nat := (s.records.filter fun e => c e.2).map (·.1)

/-- The FREE record with the lowest id (R44). -/
def State.lowestFree (s : State) : Option Nat :=
  (List.range Config.recordCount).find? fun id => (s.record? id).isNone

/-- How many records with source `p` are not FREE (R42). -/
def State.quotaCount (s : State) (p : Port) : Nat := (s.records.filter fun e => e.2.source == p).length

/-! ### The payload store -/

/-- The byte at an address; none where nothing has been written. -/
def Memory.read (a : Nat) : Memory → Option Byte
  | [] => none
  | (k, b) :: rest => if k = a then some b else Memory.read a rest

/-- The store with byte `b` at address `a`, addresses kept strictly rising. -/
def Memory.write (a : Nat) (b : Byte) : Memory → Memory
  | [] => [(a, b)]
  | (k, x) :: rest =>
    if a < k then (a, b) :: (k, x) :: rest
    else if a = k then (a, b) :: rest
    else (k, x) :: Memory.write a b rest

/-- The address lies above a bound, if there is one. -/
def Memory.above : Option Nat → Nat → Bool
  | none, _ => true
  | some lo, a => decide (lo < a)

/-- Addresses strictly rising, every one above `lo`, and inside the pool. -/
def Memory.wfFrom (lo : Option Nat) : Memory → Bool
  | [] => true
  | (k, _) :: rest =>
    decide (k < Config.cellCount * Config.cellBytes) && Memory.above lo k && Memory.wfFrom (some k) rest

/-- The canonical form of the store: addresses strictly rising, all inside the 1024 cells. -/
def Memory.wf (m : Memory) : Bool := Memory.wfFrom none m

/-- Where payload byte `k` of a message with these cells is stored: byte `k mod 32` of the cell at position
`k / 32` of the cell list (R2). None where the list has no such position or the number is no cell of the pool. -/
def payloadAddr (cells : List Nat) (k : Nat) : Option Nat :=
  match cells[k / Config.cellBytes]? with
  | none => none
  | some c => if c < Config.cellCount then some (c * Config.cellBytes + k % Config.cellBytes) else none

/-! ### Cells -/

/-- Cells of a message of this length (R7). -/
def cellsFor (length : Nat) : Nat := (length + (Config.cellBytes - 1)) / Config.cellBytes

/-! ### Causes -/

def CauseSet.add (cs : CauseSet) : Cause → CauseSet
  | .arrival => { cs with arrival := true }
  | .notice => { cs with notice := true }
  | .space => { cs with space := true }
  | .data => { cs with data := true }
  | .trunc => { cs with trunc := true }

/-- Offer a cause to a port: set on an ATTACHED port, and not set on any other (R168). -/
def State.raise (s : State) (p : Port) (c : Cause) : State :=
  if s.attached p then s.modPort p fun q => { q with causes := q.causes.add c } else s

end Sys2Proof.Machine
end

