-- ==== Sys2Proof/Machine/Flags.lean ====
section
/-! DEFINITION. What is computed from the port state and never held: the interrupt line (R170), the summary byte
(R156, R181), and the byte data out carries (R155). -/

namespace Sys2Proof.Machine

open Sys2Proof

/-- The causes that are both set and unmasked. -/
def CauseSet.inter (a b : CauseSet) : CauseSet :=
  ⟨a.arrival && b.arrival, a.notice && b.notice, a.space && b.space, a.data && b.data, a.trunc && b.trunc⟩

def CauseSet.any (a : CauseSet) : Bool := a.arrival || a.notice || a.space || a.data || a.trunc

/-- The set `a` without the causes of `b`. -/
def CauseSet.minus (a b : CauseSet) : CauseSet :=
  ⟨a.arrival && !b.arrival, a.notice && !b.notice, a.space && !b.space, a.data && !b.data, a.trunc && !b.trunc⟩

/-- Interrupt pending (R156): the port is ATTACHED and a cause is set and unmasked. -/
def PortState.interruptPending (q : PortState) : Bool := q.mode == .attached && (q.causes.inter q.mask).any

/-- IRQ of the port is asserted (R170). It is released while the port reset line or RSTn is low. -/
def State.irqAsserted (s : State) (p : Port) : Bool :=
  (s.port p).interruptPending && (s.port p).prstHigh && s.rstHigh

def PortMode.code : PortMode → Nat
  | .detached => 0
  | .attached => 1
  | .teardown => 2

/-- 1 for yes, 0 for no (R180). -/
def yesNo (b : Bool) : Nat := if b then 1 else 0

/-- The deposit context is OPEN. -/
def Deposit.isOpened : Deposit → Bool
  | .opened _ => true
  | _ => false

/-- The summary byte (R156) in the layout of R181. -/
def PortState.summaryByte (q : PortState) : Byte :=
  BitVec.ofNat 8 (64 * q.mode.code + 32 * yesNo q.interruptPending + 16 * yesNo (!q.notices.isEmpty) +
    8 * yesNo (!(q.express.isEmpty && q.bulk.isEmpty)) + 4 * yesNo q.fetch.isSome +
    2 * yesNo q.deposit.isOpened + 1)

/-- A transaction is in progress: select has fallen on a listening port and has not risen (R117, R154). -/
def Phase.inTransaction : Phase → Bool
  | .command | .argument | .data | .reply | .ignore => true
  | .idle | .blocked | .held => false

/-- The byte of the fetched message at the read offset (R2, R80). -/
def State.payloadByte? (s : State) (p : Port) : Option Byte :=
  match (s.port p).fetch with
  | none => none
  | some c =>
    match s.record? c.id with
    | none => none
    | some r =>
      match payloadAddr r.cells c.offset with
      | none => none
      | some a => Memory.read a s.mem

/-- The byte the part is now shifting out on SDO; none while SDO floats (R155). -/
def State.dataOut (s : State) (p : Port) : Option Byte :=
  let t := (s.port p).txn
  match t.phase with
  | .idle | .blocked | .held => none
  | .command => some t.summary
  | .argument | .data => some 0
  | .reply | .ignore =>
    match t.reply[t.pos]? with
    | some b => some b
    | none => if t.payload = 0 then some 0 else s.payloadByte? p

end Sys2Proof.Machine
end

