-- ==== Sys2Proof/Machine/Operands.lean ====
section
/-! DEFINITION. The wire formats of chapter 11: the command table, the decoding of each argument field (R179), the
codes of the enumerated fields (R180), and the layout of replies (R182, R183). -/

namespace Sys2Proof.Machine

open Sys2Proof

/-! ### Bytes -/

def byteOf (n : Nat) : Byte := BitVec.ofNat 8 n

/-- A two-byte field, most significant byte first. -/
def twoBytes (n : Nat) : List Byte := [byteOf (n / 256), byteOf n]

/-- The value of a two-byte field. -/
def half (hi lo : Byte) : Nat := hi.toNat * 256 + lo.toNat

/-- Argument byte `k`, counted from 0. -/
def argAt (args : List Byte) (k : Nat) : Byte := args.getD k 0

/-- The two-byte argument field that begins at byte `k`. -/
def argHalf (args : List Byte) (k : Nat) : Nat := half (argAt args k) (argAt args (k + 1))

/-- `n` bytes of 0x00. -/
def zeros (n : Nat) : List Byte := List.replicate n 0

/-! ### The command table (R157, R179) -/

def cmdStatus : Byte := 0x10
def cmdAttach : Byte := 0x11
def cmdDetach : Byte := 0x12
def cmdSetport : Byte := 0x13
def cmdClear : Byte := 0x14
def cmdReserve : Byte := 0x20
def cmdOpen : Byte := 0x21
def cmdPut : Byte := 0x22
def cmdSeal : Byte := 0x23
def cmdCancel : Byte := 0x24
def cmdFetch : Byte := 0x30
def cmdGet : Byte := 0x31
def cmdRelease : Byte := 0x32
def cmdForward : Byte := 0x33
def cmdNotice : Byte := 0x40
def cmdPropose : Byte := 0x50
def cmdEndorse : Byte := 0x51
def cmdDecline : Byte := 0x52
def cmdInspect : Byte := 0x60

/-- Each command byte with its number of argument bytes; PUT's data bytes are not counted (R157). -/
def commandTable : List (Byte × Nat) :=
  [(cmdStatus, 0), (cmdAttach, 0), (cmdDetach, 0), (cmdSetport, 4), (cmdClear, 1), (cmdReserve, 3), (cmdOpen, 9),
    (cmdPut, 1), (cmdSeal, 0), (cmdCancel, 0), (cmdFetch, 0), (cmdGet, 1), (cmdRelease, 1), (cmdForward, 1),
    (cmdNotice, 0), (cmdPropose, 3), (cmdEndorse, 3), (cmdDecline, 1), (cmdInspect, 2)]

/-- The number of argument bytes of a command byte; none for a byte that names no command (R157). -/
def argCount (b : Byte) : Option Nat := (commandTable.find? fun e => e.1 = b).map (·.2)

/-! ### Argument fields (R179) -/

/-- A port mask; bits 7 to 4 are ignored. -/
def maskPorts (b : Byte) : PortSet := PerPort.ofFn fun p => b.getLsbD (portNumber p)

/-- A port mask on the wire. Bits 7 to 4 have no meaning, and read 0 (DESIGN CHOICE, unsafe: log entry 21). -/
def portMask (v : PortSet) : Byte :=
  byteOf (yesNo v.p0 + 2 * yesNo v.p1 + 4 * yesNo v.p2 + 8 * yesNo v.p3)

/-- A class byte. -/
def classOf (b : Byte) : Option Cls :=
  if b = 0x00 then some .express else if b = 0x01 then some .bulk else none

/-- The causes named by bits 0 to 4. -/
def causesOf (b : Byte) : CauseSet :=
  ⟨b.getLsbD 0, b.getLsbD 1, b.getLsbD 2, b.getLsbD 3, b.getLsbD 4⟩

/-- The CLEAR item byte names nothing but the five causes and the frame-error flag. -/
def itemsInRange (b : Byte) : Bool := !b.getLsbD 5 && !b.getLsbD 6

/-- The SETPORT mask byte names nothing but the five causes. -/
def maskInRange (b : Byte) : Bool := !b.getLsbD 5 && !b.getLsbD 6 && !b.getLsbD 7

/-- A setting code. -/
def settingOf (b : Byte) : Option Setting :=
  if b = 0x01 then some .tick else if b = 0x02 then some .guard else if b = 0x03 then some .deflife else none

/-- A RELEASE disposition. -/
inductive Disposition where
  | accept | refuse | defer
  deriving DecidableEq, Repr

def dispositionOf (b : Byte) : Option Disposition :=
  if b = 0x01 then some .accept else if b = 0x02 then some .refuse else if b = 0x03 then some .defer else none

/-- A count byte holds the count less one. -/
def countOf (b : Byte) : Nat := b.toNat + 1

/-- The INSPECT kinds. -/
inductive InspectKind where
  | message | pool | settings
  deriving DecidableEq, Repr

def inspectKindOf (b : Byte) : Option InspectKind :=
  if b = 0x01 then some .message else if b = 0x02 then some .pool else if b = 0x03 then some .settings else none

/-- The arguments of OPEN (spec chapter 03, section 3.2); the class is none where its code is neither class. -/
structure OpenArgs where
  dests : PortSet
  cls : Option Cls
  early : Bool
  receipt : Bool
  wait : Bool
  declared : Nat
  lifetime : Nat
  tag : Half
  deriving DecidableEq, Repr

/-- The nine argument bytes of OPEN: destination mask, class, flags, declared length, lifetime, tag. -/
def openArgsOf (args : List Byte) : OpenArgs where
  dests := maskPorts (argAt args 0)
  cls := classOf (argAt args 1)
  early := (argAt args 2).getLsbD 0
  receipt := (argAt args 2).getLsbD 1
  wait := (argAt args 2).getLsbD 2
  declared := argHalf args 3
  lifetime := argHalf args 5
  tag := BitVec.ofNat 16 (argHalf args 7)

/-! ### Codes (R180) -/

def Status.code : Status → Byte
  | .ok => 0x00
  | .wait => 0x01
  | .endOfMessage => 0x02
  | .trunc => 0x03
  | .empty => 0x04
  | .state => 0x10
  | .busy => 0x11
  | .range => 0x12
  | .quota => 0x13
  | .table => 0x14
  | .nodest => 0x15
  | .full => 0x16
  | .nospace => 0x17
  | .noopen => 0x18
  | .nofetch => 0x19
  | .overlen => 0x1A
  | .expired => 0x1B
  | .mismatch => 0x1C
  | .notreq => 0x1D
  | .denied => 0x1E
  | .badcmd => 0x1F

def portByte (p : Port) : Byte := byteOf (portNumber p)

/-- A port that may be absent: 0xFF when absent. -/
def optPortByte : Option Port → Byte
  | none => 0xFF
  | some p => portByte p

def modeByte (m : PortMode) : Byte := byteOf m.code

def TeardownCause.code : TeardownCause → Byte
  | .chipReset => 0x00
  | .detach => 0x01
  | .portReset => 0x02
  | .lease => 0x03

def Deposit.code : Deposit → Byte
  | .none => 0x00
  | .opened _ => 0x01
  | .lapsed _ _ => 0x02

def Deposit.id : Deposit → Nat
  | .none => 0
  | .opened id => id
  | .lapsed id _ => id

def RecState.code : RecState → Byte
  | .opened => 0x01
  | .sealed => 0x02
  | .aborted => 0x03
  | .reporting => 0x04

def abortCauseByte : Option AbortCause → Byte
  | none => 0x00
  | some .cancelled => 0x01
  | some .expired => 0x02
  | some .sourceLost => 0x03

def Stage.code : Stage → Byte
  | .claimed => 0x00
  | .queued => 0x01
  | .fetching => 0x02
  | .done _ => 0x03

def Fate.code : Fate → Byte
  | .accepted => 0x01
  | .refused => 0x02
  | .expired => 0x03
  | .detached => 0x04
  | .aborted => 0x05
  | .truncated => 0x06

/-- The RELEASE result DEFERRED. -/
def resultDeferred : Byte := 0x07

/-- The outcome of a stage, absent before DONE. -/
def Stage.fate : Stage → Option Fate
  | .done f => some f
  | _ => none

def optFateByte : Option Fate → Byte
  | none => 0x00
  | some f => f.code

/-- Why a port is or is not admitted as a destination (R50, R87). -/
inductive Reason where
  | notChecked | unnamed | admitted | self | notAttached | limit | present
  deriving DecidableEq, Repr

def Reason.code : Reason → Byte
  | .notChecked => 0x00
  | .unnamed => 0x01
  | .admitted => 0x02
  | .self => 0x03
  | .notAttached => 0x04
  | .limit => 0x05
  | .present => 0x06

/-- The four reasons, for P0 to P3 in that order. -/
def reasonBytes (r : PerPort Reason) : List Byte := allPorts.map fun p => (r.get p).code

def optChargeByte : Option Charge → Byte
  | none => 0x00
  | some .reserve => 0x01
  | some .shared => 0x02

def Cls.code : Cls → Byte
  | .express => 0x00
  | .bulk => 0x01

def Setting.code : Setting → Byte
  | .tick => 0x01
  | .guard => 0x02
  | .deflife => 0x03

def AgreementPhase.code : AgreementPhase → Byte
  | .proposed => 0x01
  | .adopted => 0x02
  | .declined => 0x03
  | .timedOut => 0x04
  | .withdrawn => 0x05

/-- The agreement results NONE, PENDING and ADOPTED. -/
def resultNone : Byte := 0x00
def resultPending : Byte := 0x01
def resultAdopted : Byte := 0x02

/-- The causes, or the mask, in bits 0 to 4. -/
def causeBits (cs : CauseSet) : Nat :=
  yesNo cs.arrival + 2 * yesNo cs.notice + 4 * yesNo cs.space + 8 * yesNo cs.data + 16 * yesNo cs.trunc

/-- The causes field and the mask field of a reply (R180). Bits 7 to 5 have no meaning, and read 0 (DESIGN CHOICE, unsafe:
log entry 21). -/
def causeByte (cs : CauseSet) : Byte := byteOf (causeBits cs)

/-- A yes/no field (R180). The frame-error flag of STATUS and CLEAR stands in the same codes, 0x00 for clear and 0x01 for
set, which the spec does not give (DESIGN CHOICE, unsafe: log entry 22). -/
def boolByte (b : Bool) : Byte := byteOf (yesNo b)

/-! ### Notice bodies (R183) -/

/-- The kind byte and the body of a notice. -/
def Notice.bytes : Notice → List Byte
  | .receipt r =>
    [0x01, byteOf r.id] ++ twoBytes r.serial.toNat ++ twoBytes r.tag.toNat ++ [r.cls.code] ++ twoBytes r.length ++
      [if r.abortCause.isSome then RecState.aborted.code else RecState.sealed.code, abortCauseByte r.abortCause,
        byteOf r.outcomes.length] ++
      r.outcomes.flatMap fun e => [portByte e.port, optPortByte e.via, optFateByte e.fate]
  | .peer port attached transitions =>
    [0x02, portByte port, modeByte (if attached then .attached else .detached), byteOf transitions]
  | .agreement a =>
    [0x03, a.phase.code, a.setting.code] ++ twoBytes a.value ++ [portByte a.proposer, optPortByte a.decliner]

end Sys2Proof.Machine
end

