-- ==== Sys2Proof/WellFormed.lean ====
section
/-! DEFINITION. Which terms of Instr stand for an event that the spec describes: the checks on operands alone. -/

namespace Sys2Proof

/-- A BADCMD byte names no command (R157). -/
def badByte (b : Byte) : Bool := (Machine.argCount b).isNone

/-- A run of clocks since the last whole byte is shorter than a byte (R155). -/
def partialClocks (clocks : Nat) : Bool := decide (clocks < 8)

/-- A record id is 0 to 255 (R23). -/
def recordId (id : Nat) : Bool := decide (id < Config.recordCount)

/-- A tick names each owner at most once (R108). -/
def distinctTasks (order : List TickTask) : Bool := decide order.Nodup

/-- A byte collected as an argument byte may have any value, so only these rows have a check. -/
def Instr.wellFormed : Instr → Bool
  | .status _ => true
  | .attach _ => true
  | .detach _ => true
  | .setport _ _ => true
  | .clear _ _ => true
  | .reserve _ _ => true
  | .openMsg _ _ => true
  | .put _ _ => true
  | .putDataByte _ _ => true
  | .sealMsg _ => true
  | .cancel _ => true
  | .fetch _ => true
  | .get _ _ => true
  | .getPayloadByte _ => true
  | .release _ _ => true
  | .forward _ _ => true
  | .notice _ => true
  | .propose _ _ => true
  | .endorse _ _ => true
  | .decline _ _ => true
  | .inspectMessage _ _ => true
  | .inspectPool _ _ => true
  | .inspectSettings _ _ => true
  | .badcmd _ b => badByte b
  | .selectFall _ => true
  | .selectRise _ clocks => partialClocks clocks
  | .portResetFall _ clocks => partialClocks clocks
  | .portResetRise _ => true
  | .chipReset => true
  | .chipResetRelease => true
  | .tick order => distinctTasks order
  | .expiryOfOpenRecord id => recordId id
  | .expiryOfSealedRecord id => recordId id
  | .leaseExpiry _ => true
  | .proposalTimeout => true
  | .teardownCompletion _ => true
  | .receiptPosting _ => true
  | .argumentByteReceived _ _ => true
  | .replyByteShiftedOut _ => true
  | .inspectInvalidKind _ _ => true

end Sys2Proof
end

