-- ==== Sys2Proof/Machine/Pool.lean ====
section
/-! DEFINITION. The Cell Pool Manager's operations (spec chapter 01): accounts, the charge decision, charging, the
return of cells, the space-wait check, and the dissolution of a departing port's reserves. -/

namespace Sys2Proof.Machine

open Sys2Proof

/-- The free count of an account (R3). -/
def Account.free (a : Account) : Nat := a.size - a.charged

/-- reserve(p, c) of the port. -/
def PortState.reserve (q : PortState) : Cls → Account
  | .express => q.resExpress
  | .bulk => q.resBulk

def PortState.setReserve (q : PortState) (c : Cls) (a : Account) : PortState :=
  match c with
  | .express => { q with resExpress := a }
  | .bulk => { q with resBulk := a }

def Cls.other : Cls → Cls
  | .express => .bulk
  | .bulk => .express

/-- The sum of the two reserve sizes of a port. -/
def PortState.reserveSize (q : PortState) : Nat := q.resExpress.size + q.resBulk.size

/-- The sum of the eight reserve sizes. -/
def State.reserveSum (s : State) : Nat :=
  s.ports.p0.reserveSize + s.ports.p1.reserveSize + s.ports.p2.reserveSize + s.ports.p3.reserveSize

/-- The size of SHARED (R4). -/
def State.sharedSize (s : State) : Nat := Config.cellCount - s.reserveSum

/-- The free count of SHARED. -/
def State.sharedFree (s : State) : Nat := s.sharedSize - s.sharedCharged

/-- The account that `n` cells of class `c` from port `p` can be charged to (R8); none is NOSPACE. -/
def State.chargeable (s : State) (p : Port) (c : Cls) (n : Nat) : Option Charge :=
  if n ≤ ((s.port p).reserve c).free then some .reserve
  else if n ≤ s.sharedFree ∧ (c = .express ∨ s.guard ≤ s.sharedFree - n) then some .shared
  else none

/-- Add `n` to the charged count of an account of port `p`. -/
def State.addCharge (s : State) (p : Port) (c : Cls) (a : Charge) (n : Nat) : State :=
  match a with
  | .reserve =>
    s.modPort p fun q => q.setReserve c ⟨(q.reserve c).size, (q.reserve c).charged + n⟩
  | .shared => { s with sharedCharged := s.sharedCharged + n }

/-- Take `n` from the charged count of an account of port `p`. -/
def State.subCharge (s : State) (p : Port) (c : Cls) (a : Charge) (n : Nat) : State :=
  match a with
  | .reserve =>
    s.modPort p fun q => q.setReserve c ⟨(q.reserve c).size, (q.reserve c).charged - n⟩
  | .shared => { s with sharedCharged := s.sharedCharged - n }

/-- Append cells to the tail of the free list and credit the account they were charged to (R11, R12). -/
def State.returnCells (s : State) (p : Port) (c : Cls) (account : Option Charge) (cells : List Nat) : State :=
  let s' := { s with freeList := s.freeList ++ cells }
  match account with
  | none => s'
  | some a => s'.subCharge p c a cells.length

/-- The check of one port's armed wait: a satisfied wait is cleared and SPACE is set (R19). -/
def State.waitCheckPort (s : State) (p : Port) : State :=
  match (s.port p).wait with
  | none => s
  | some w =>
    if (s.chargeable p w.cls w.cells).isSome then (s.modPort p fun q => { q with wait := none }).raise p .space
    else s

/-- The space-wait check over every armed wait (R19). -/
def State.waitCheck (s : State) : State := allPorts.foldl State.waitCheckPort s

/-- Run the space-wait check if `s` has more free cells than `before` had: at least one cell was returned (R19). -/
def State.waitCheckIfFreed (s before : State) : State :=
  if before.freeList.length < s.freeList.length then s.waitCheck else s

/-- The size granted to a RESERVE of `r` cells (R15, R16). -/
def State.reserveGrant (s : State) (p : Port) (c : Cls) (r : Nat) : Nat :=
  let a := (s.port p).reserve c
  if a.size < r then
    min r (min (Config.reservePortMax - ((s.port p).reserve c.other).size)
      (min (Config.reserveSumMax - (s.reserveSum - a.size)) (a.size + s.sharedFree)))
  else max r a.charged

/-- Dissolve both reserves of a departing port into SHARED, and relabel its records (R21). -/
def State.dissolve (s : State) (p : Port) : State :=
  let q := s.port p
  let s1 := { s with sharedCharged := s.sharedCharged + q.resExpress.charged + q.resBulk.charged }
  let s2 := s1.mapRecords fun r =>
    if r.source = p ∧ r.account = some .reserve then { r with account := some .shared } else r
  s2.modPort p fun q => { q with resExpress := ⟨0, 0⟩, resBulk := ⟨0, 0⟩ }

end Sys2Proof.Machine
end

