-- ==== Sys2Proof/Machine/Notices.lean ====
section
/-! DEFINITION. The Notice Unit's operations (spec chapter 05): offers and coalescing, receipts, and the backlog. -/

namespace Sys2Proof.Machine

open Sys2Proof

/-- Put a notice at the tail of an ATTACHED port's queue and set its NOTICE cause (R96, R100). -/
def State.appendNotice (s : State) (p : Port) (n : Notice) : State :=
  (s.modPort p fun q => { q with notices := q.notices ++ [n] }).raise p .notice

/-- The notice is a PEER notice about `r`. -/
def Notice.isPeerOf (r : Port) : Notice → Bool
  | .peer x _ _ => x == r
  | _ => false

def Notice.isAgreement : Notice → Bool
  | .agreement _ => true
  | _ => false

def Notice.isReceipt : Notice → Bool
  | .receipt _ => true
  | _ => false

/-- The held PEER notice takes the offered state and counts one transition more, up to 255 (R98). -/
def Notice.coalescePeer (attached : Bool) : Notice → Notice
  | .peer x _ k => .peer x attached (min (k + 1) Config.transitionsMax)
  | n => n

/-- Offer port `p` a PEER notice about `r` (R96, R98). -/
def State.offerPeer (s : State) (r : Port) (attached : Bool) (p : Port) : State :=
  if s.attached p then
    if (s.port p).notices.any (Notice.isPeerOf r) then
      (s.modPort p fun q =>
        { q with
          notices := q.notices.map fun n => if n.isPeerOf r then n.coalescePeer attached else n }).raise p .notice
    else s.appendNotice p (.peer r attached 1)
  else s

/-- Offer every port but `r` a PEER notice about `r` (R133). -/
def State.offerPeers (s : State) (r : Port) (attached : Bool) : State :=
  (allPorts.filter (· ≠ r)).foldl (fun t p => t.offerPeer r attached p) s

/-- Offer port `p` an AGREEMENT notice (R96, R99). -/
def State.offerAgreement (s : State) (a : AgreementInfo) (p : Port) : State :=
  if s.attached p then
    if (s.port p).notices.any Notice.isAgreement then
      (s.modPort p fun q =>
        { q with
          notices := q.notices.map fun n => if n.isAgreement then .agreement a else n }).raise p .notice
    else s.appendNotice p (.agreement a)
  else s

/-- Offer an AGREEMENT notice to every port of a set. -/
def State.offerAgreements (s : State) (a : AgreementInfo) (members : PortSet) : State :=
  (allPorts.filter members.get).foldl (fun t p => t.offerAgreement a p) s

/-- The receipt of a record as it stands (R103). -/
def Record.receiptOf (id : Nat) (r : Record) : Receipt where
  id := id
  serial := r.serial
  tag := r.tag
  cls := r.cls
  length := r.deposited
  abortCause := r.abortCause
  outcomes := r.deliveries.map fun e => ⟨e.port, e.via, e.stage.fate⟩

/-- Post the receipt of record `id` to port `p`, and free the record (R97, R102). -/
def State.postReceipt (s : State) (p : Port) (id : Nat) (r : Record) : State :=
  (s.freeRecord id).appendNotice p (.receipt (r.receiptOf id))

/-- Offer the receipt of a retired record to its source: admitted below 28 notices, and otherwise the record becomes
REPORTING at the tail of the backlog (R97). -/
def State.offerReceipt (s : State) (id : Nat) (r : Record) : State :=
  if (s.port r.source).notices.length < Config.noticeThreshold then s.postReceipt r.source id r
  else
    (s.putRecord id { r with state := .reporting }).modPort r.source fun q => { q with backlog := q.backlog ++ [id] }

/-- The posting check of port `p` (R102): with fewer than 28 notices and a backlog, the record at the head of the
backlog is posted. Otherwise nothing is posted. -/
def State.postingCheck (s : State) (p : Port) : State :=
  match (s.port p).backlog with
  | [] => s
  | id :: rest =>
    if (s.port p).notices.length < Config.noticeThreshold then
      match s.record? id with
      | none => s
      | some r => (s.modPort p fun q => { q with backlog := rest }).postReceipt p id r
    else s

/-- Every record of the port's backlog becomes FREE without a receipt (R105). -/
def State.discardBacklog (s : State) (p : Port) : State :=
  ((s.port p).backlog.foldl State.freeRecord s).modPort p fun q => { q with backlog := [] }

end Sys2Proof.Machine
end

