-- ==== Sys2Proof/Machine/Table.lean ====
section
/-! DEFINITION. The Message Table's and the Delivery Queue Unit's shared operations (spec chapters 02 and 04): the
ending of deliveries, publication, abort, the causes of readers, and retire. -/

namespace Sys2Proof.Machine

open Sys2Proof

/-- The queue of class `c`. -/
def PortState.queue (q : PortState) : Cls → List Nat
  | .express => q.express
  | .bulk => q.bulk

def PortState.setQueue (q : PortState) (c : Cls) (ids : List Nat) : PortState :=
  match c with
  | .express => { q with express := ids }
  | .bulk => { q with bulk := ids }

def Stage.isDone : Stage → Bool
  | .done _ => true
  | _ => false

/-! ### Ending deliveries -/

/-- The port loses a delivery of message `id`: it leaves its queue if it was QUEUED, and one unit of intake is
released (R34). -/
def PortState.dropDelivery (q : PortState) (id : Nat) (c : Cls) (was : Stage) : PortState :=
  let q' := if was = .queued then q.setQueue c ((q.queue c).erase id) else q
  { q' with intake := q'.intake - 1 }

/-- The entry DONE with the outcome `f` gives it, if it gives one. -/
def Entry.endBy (f : Entry → Option Fate) (e : Entry) : Entry :=
  match f e with
  | none => e
  | some o => { e with stage := .done o }

/-- End the deliveries of record `id` to which `f` gives an outcome (R34). The retire check is the caller's. -/
def State.endDeliveries (s : State) (id : Nat) (f : Entry → Option Fate) : State :=
  match s.record? id with
  | none => s
  | some r =>
    (r.deliveries.filter fun e => (f e).isSome).foldl
      (fun t e => t.modPort e.port fun q => q.dropDelivery id r.cls e.stage)
      (s.putRecord id { r with deliveries := r.deliveries.map (Entry.endBy f) })

/-- Change the entry of port `p` in record `id` to `stage`. -/
def Record.withStage (r : Record) (p : Port) (stage : Stage) : Record :=
  { r with deliveries := r.deliveries.map fun e => if e.port = p then { e with stage := stage } else e }

/-! ### Readers -/

/-- One reader: with its awaiting flag set for message `id`, DATA is set and the flag cleared (R81). -/
def State.wakeReader (s : State) (id : Nat) (p : Port) : State :=
  match (s.port p).fetch with
  | none => s
  | some c =>
    if c.id = id ∧ c.awaiting = true then
      (s.modPort p fun q => { q with fetch := some { c with awaiting := false } }).raise p .data
    else s

/-- Every reader of message `id` that awaits data receives DATA, and its flag is cleared (R81). -/
def State.wakeReaders (s : State) (id : Nat) : State := allPorts.foldl (fun t p => t.wakeReader id p) s

/-- One reader of message `id` receives TRUNC (R82). -/
def State.cutReader (s : State) (id : Nat) (p : Port) : State :=
  match (s.port p).fetch with
  | none => s
  | some c => if c.id = id then s.raise p .trunc else s

/-- TRUNC at every port that holds message `id` in its fetch context (R82). -/
def State.cutReaders (s : State) (id : Nat) : State := allPorts.foldl (fun t p => t.cutReader id p) s

/-! ### Publication -/

/-- The stage of a CLAIMED entry after its publication: QUEUED at an ATTACHED port, DONE DETACHED elsewhere (R72). -/
def State.publishedEntry (s : State) (e : Entry) : Entry :=
  if e.stage = .claimed then
    { e with stage := if s.attached e.port then .queued else .done .detached }
  else e

/-- What publication does at the port of one CLAIMED entry (R72). -/
def State.publishAt (s : State) (id : Nat) (c : Cls) (e : Entry) : State :=
  if s.attached e.port then
    (s.modPort e.port fun q => q.setQueue c (q.queue c ++ [id])).raise e.port .arrival
  else s.modPort e.port fun q => q.dropDelivery id c .claimed

/-- Publish every CLAIMED entry of record `id`, in list order (R63, R72). -/
def State.publish (s : State) (id : Nat) : State :=
  match s.record? id with
  | none => s
  | some r =>
    (r.deliveries.filter fun e => e.stage = .claimed).foldl (fun t e => t.publishAt id r.cls e)
      (s.putRecord id { r with deliveries := r.deliveries.map s.publishedEntry })

/-! ### Abort -/

/-- The outcome an abort gives an entry that has not reached a reader (R29). -/
def abortFate (cause : AbortCause) (e : Entry) : Option Fate :=
  if e.stage = .claimed ∨ e.stage = .queued then
    some (if cause = .expired then .expired else .aborted)
  else none

/-- Abort record `id` (R28, R29, R81, R82). The source's deposit context and the retire check are the caller's. -/
def State.abort (s : State) (id : Nat) (cause : AbortCause) : State :=
  (((s.endDeliveries id (abortFate cause)).modRecord id fun r =>
    { r with
      state := .aborted, abortCause := some cause, remaining := none, expired := cause == .expired }).wakeReaders
        id).cutReaders id

/-! ### Retire -/

/-- The retire check (R36). -/
def Record.retires (r : Record) : Bool :=
  (r.state == .sealed || r.state == .aborted) && r.deliveries.all fun e => e.stage.isDone

/-- Run the retire check on record `id` and retire it if it passes (R36, R37). The space-wait check is the caller's. -/
def State.retireOne (s : State) (id : Nat) : State :=
  match s.record? id with
  | none => s
  | some r =>
    if r.retires then
      let s1 := s.returnCells r.source r.cls r.account r.cells
      let r1 := { r with cells := [], account := none, remaining := none }
      if r.receipt && s.attached r.source then s1.offerReceipt id r1 else s1.freeRecord id
    else s

/-- Run the retire check on each record of a list, in the order of the list (R38). -/
def State.retireAll (s : State) (ids : List Nat) : State := ids.foldl State.retireOne s

/-- Retire what one event has ended, and run the space-wait check once if a cell was freed (R12, R38). -/
def State.retire (s : State) (ids : List Nat) : State := (s.retireAll ids).waitCheckIfFreed s

/-- The cells that record `id` holds; none where it is FREE (R2). -/
def State.cellsOf (s : State) (id : Nat) : List Nat :=
  match s.record? id with
  | none => []
  | some r => r.cells

/-- `t`, which the acts of one event have made of `s`, with the cells they returned in ascending order of the records
that held them, whatever the order of the acts (R12, R38). -/
def State.returnedInOrder (s t : State) : State :=
  { t with freeList := s.freeList ++ s.records.flatMap fun e => if t.cellsOf e.1 = [] then e.2.cells else [] }

/-! ### Expiry -/

/-- The lifetime of record `id` has reached 0 and its expiry has not been taken. -/
def Record.lifetimeOver (r : Record) : Bool :=
  (r.state == .opened || r.state == .sealed) && r.remaining == some 0

/-- Expiry of an OPEN record, up to its retire check (R112): it is aborted, and its source's deposit context becomes
LAPSED and keeps the deposited length (R114). -/
def State.expireOpen (s : State) (id : Nat) (r : Record) : State :=
  (s.abort id .expired).modPort r.source fun q => { q with deposit := .lapsed id r.deposited }

/-- Expiry of a SEALED record, up to its retire check (R113). -/
def State.expireSealed (s : State) (id : Nat) : State :=
  (s.endDeliveries id fun e => if e.stage = .queued then some .expired else none).modRecord id fun r =>
    { r with expired := true, remaining := none }

/-- The expiry of record `id`, up to its retire check, if its lifetime is over. -/
def State.expire (s : State) (id : Nat) : State :=
  match s.record? id with
  | none => s
  | some r =>
    if r.lifetimeOver then
      match r.state with
      | .opened => s.expireOpen id r
      | _ => s.expireSealed id
    else s

/-- The expiries of one tick: in ascending order of id, then the retires in the same order, then the space-wait check
once (R115). -/
def State.expireMessages (s : State) : State :=
  let ids := s.recordIds Record.lifetimeOver
  (ids.foldl State.expire s).retire ids

end Sys2Proof.Machine
end

