-- ==== Sys2Proof/Machine/Agreement.lean ====
section
/-! DEFINITION. The Agreement Unit's operations (spec chapter 08): adoption, withdrawal and timeout. -/

namespace Sys2Proof.Machine

open Sys2Proof

/-- The AGREEMENT notice of a phase of a proposal (R95). -/
def Proposal.notice (a : Proposal) (phase : AgreementPhase) (decliner : Option Port := none) : AgreementInfo where
  phase := phase
  setting := a.setting
  value := a.value
  proposer := a.proposer
  decliner := decliner

/-- The value lies in the setting's range (R143). -/
def Setting.inRange (st : Setting) (value : Nat) : Bool :=
  match st with
  | .tick => decide (value ≤ 3)
  | .guard => decide (value ≤ 64)
  | .deflife => true

/-- The setting takes the value, and its effect on its user follows (R147, R148): a TICK value restarts the tick
interval (R109), and a GUARD value runs the space-wait check (R10). -/
def State.takeSetting (s : State) (st : Setting) (value : Nat) : State :=
  match st with
  | .tick => { s with tick := value, interval := some value }
  | .guard => { s with guard := value }.waitCheck
  | .deflife => { s with deflife := value }

/-- Adopt the proposal (R147). -/
def State.adopt (s : State) (a : Proposal) : State :=
  { (s.takeSetting a.setting a.value).offerAgreements (a.notice .adopted) a.required with slot := none }

/-- Put the proposal in the slot, or adopt it if every required port has endorsed (R147). -/
def State.holdOrAdopt (s : State) (a : Proposal) : State :=
  if a.endorsers = a.required then s.adopt a else { s with slot := some a }

/-- End the proposal with a phase offered to a set (R146, R149, R150). -/
def State.endProposal (s : State) (info : AgreementInfo) (members : PortSet) : State :=
  { s.offerAgreements info members with slot := none }

/-- What a teardown start of `p` does to the slot (R150). -/
def State.leaveProposal (s : State) (p : Port) : State :=
  match s.slot with
  | none => s
  | some a =>
    if a.required.get p then
      if a.proposer = p then s.endProposal (a.notice .withdrawn) (a.required.set p false)
      else s.holdOrAdopt { a with required := a.required.set p false, endorsers := a.endorsers.set p false }
    else s

/-- The pending proposal times out if its remaining ticks have reached 0 (R149). -/
def State.timeOut (s : State) : State :=
  match s.slot with
  | none => s
  | some a => if a.remaining = 0 then s.endProposal (a.notice .timedOut) a.required else s

end Sys2Proof.Machine
end

