-- ==== Sys2Proof/Machine/Lifecycle.lean ====
section
/-! DEFINITION. The two shared acts of the port life cycle (spec chapter 07): teardown start (R129) and teardown
completion (R132), and the chip reset of every block (R140). -/

namespace Sys2Proof.Machine

open Sys2Proof

/-- Steps 1 to 3 of teardown start (R129), on the port alone. -/
def PortState.startTeardown (q : PortState) (cause : TeardownCause) : PortState :=
  { q with mode := .teardown, lastCause := cause, causes := CauseSet.empty, leaseCounter := 0 }

/-- Step 4 of teardown start: the deposit context becomes NONE, and an OPEN record is aborted SOURCE_LOST (R67). -/
def State.loseDeposit (s : State) (p : Port) : State :=
  let s' := s.modPort p fun q => { q with deposit := .none }
  match (s.port p).deposit with
  | .opened id => s'.abort id .sourceLost
  | _ => s'

/-- Step 5: every record of the port has receipt wanted no (R40). -/
def State.dropReceipts (s : State) (p : Port) : State :=
  s.mapRecords fun r => if r.source = p then { r with receipt := false } else r

/-- Step 6: the current delivery of the port ends DETACHED (R90). -/
def State.loseFetch (s : State) (p : Port) : State :=
  let s' := s.modPort p fun q => { q with fetch := none }
  match (s.port p).fetch with
  | none => s'
  | some c => s'.endDeliveries c.id fun e => if e.port = p ∧ e.stage = .fetching then some .detached else none

/-- The records that steps 4 and 6 can leave with every entry DONE, in ascending order of id (R38). -/
def PortState.heldIds (q : PortState) : List Nat :=
  match q.deposit, q.fetch with
  | .opened a, some c => if a < c.id then [a, c.id] else if a = c.id then [a] else [c.id, a]
  | .opened a, none => [a]
  | _, some c => [c.id]
  | _, none => []

/-- Teardown start of port `p`, steps 1 to 10 of R129. -/
def State.teardownStart (s : State) (p : Port) (cause : TeardownCause) : State :=
  let held := (s.port p).heldIds
  let s6 := (((s.modPort p fun q => q.startTeardown cause).loseDeposit p).dropReceipts p).loseFetch p
  let s7 := s6.retireAll held
  let s8 := (s7.modPort p fun q => { q with wait := none }).waitCheckIfFreed s6
  (s8.discardBacklog p).leaveProposal p

/-- The entry is a delivery to `p` that waits for it. -/
def Entry.waitsFor (p : Port) (e : Entry) : Bool :=
  e.port == p && (e.stage == .claimed || e.stage == .queued)

/-- The deliveries to `p` that are CLAIMED or QUEUED (R126). -/
def State.waitingDeliveries (s : State) (p : Port) : Nat :=
  (s.records.map fun e => e.2.deliveries.countP (Entry.waitsFor p)).sum

/-- Step 1 of teardown completion (R91): the waiting deliveries to `p` end DETACHED, its queues empty and its intake
count is 0. -/
def State.purgeDeliveries (s : State) (p : Port) : State :=
  (s.mapRecords fun r =>
    { r with
      deliveries := r.deliveries.map (Entry.endBy fun e => if e.waitsFor p then some .detached else none) }).modPort
        p fun q => { q with express := [], bulk := [], intake := 0 }

/-- The items that return to their reset values at teardown completion, and the state DETACHED (R135). -/
def PortState.completeTeardown (q : PortState) : PortState :=
  { q with
    mode := .detached, causes := CauseSet.empty, mask := CauseSet.empty, frameError := false, bias := Config.biasReset,
    leasePeriod := 0, leaseCounter := 0, deposit := .none, limit := Config.limitReset, streak := 0, fetch := none,
    wait := none, backlog := [] }

/-- Teardown completion of port `p`, steps 1 to 8 of R132. -/
def State.teardownComplete (s : State) (p : Port) : State :=
  let ended := s.recordIds fun r => r.deliveries.any (Entry.waitsFor p)
  let s2 := (s.purgeDeliveries p).retireAll ended
  let s3 := s2.modPort p fun q => { q with notices := [] }
  let s5 := (s3.dissolve p).waitCheck
  (s5.modPort p PortState.completeTeardown).offerPeers p false

/-- The lease of `p` has run out: ATTACHED, a period other than 0, and a counter that has reached 0 (R118). -/
def PortState.leaseOver (q : PortState) : Bool :=
  q.mode == .attached && q.leasePeriod != 0 && q.leaseCounter == 0

/-- The lease expiry of `p` (R119), if its lease has run out. -/
def State.expireLease (s : State) (p : Port) : State :=
  if (s.port p).leaseOver then s.teardownStart p .lease else s

/-- The phase of a port when it becomes able to listen, or stays held (R154). -/
def PortState.listeningPhase (q : PortState) : Phase :=
  if q.prstHigh then (if q.selHigh then .idle else .blocked) else .held

/-- A port after chip reset while RSTn is low: every item at its reset value, the pins as they stand, phase HELD. -/
def PortState.chipReset (q : PortState) : PortState :=
  { PortState.reset with selHigh := q.selHigh, prstHigh := q.prstHigh, txn := Txn.quiet .held }

/-- RSTn falls: every block at its reset state, and no tick interval (R140, R166). -/
def State.chipReset (s : State) : State :=
  { State.reset with
    pending := s.pending, rstHigh := false, ports := s.ports.map PortState.chipReset, interval := none }

/-! ### The tick -/

/-- A record's lifetime counts down while it is OPEN or SEALED and has one (R111). -/
def Record.countdown (r : Record) : Record :=
  if r.state = .opened ∨ r.state = .sealed then { r with remaining := r.remaining.map (· - 1) } else r

/-- A port's lease counter counts down while it is ATTACHED with a period and outside a transaction (R118). -/
def PortState.countdown (q : PortState) : PortState :=
  if q.mode = .attached ∧ q.leasePeriod ≠ 0 ∧ q.txn.phase.inTransaction = false then
    { q with leaseCounter := q.leaseCounter - 1 }
  else q

/-- A pending proposal counts down (R149). -/
def Proposal.countdown (a : Proposal) : Proposal := { a with remaining := a.remaining - 1 }

/-- The next interval begins, and every count goes down by one (R108, R111, R118, R149). -/
def State.countdown (s : State) : State :=
  { s.mapRecords Record.countdown with
    ports := s.ports.map PortState.countdown
    slot := s.slot.map Proposal.countdown
    interval := some s.tick }

/-- The consequences of a tick at one owner: what has reached 0 there is taken. -/
def State.tickTask (s : State) : TickTask → State
  | .messages => s.expireMessages
  | .lease p => s.expireLease p
  | .proposal => s.timeOut

/-- Every owner a tick reaches. -/
def allTickTasks : List TickTask := .messages :: allPorts.map .lease ++ [.proposal]

end Sys2Proof.Machine
end

