-- ==== Sys2Proof/Machine/Frame.lean ====
section
/-! DEFINITION. The framing of a transaction (spec chapter 09): which row of the table the completion of a byte is, the
command-taken event, and the start of a reply. -/

namespace Sys2Proof.Machine

open Sys2Proof

/-- The outcome of one command or event. -/
abbrev StepOutcome := Host.Outcome State Fault Refusal

/-- What a taken command leaves: the state, the composed reply, and the payload bytes promised after it (R160). -/
structure Taken where
  state : State
  reply : List Byte
  payload : Nat

/-- A command that composes a reply without payload bytes. -/
def replyWith (s : State) (reply : List Byte) : Except Fault Taken := .ok ⟨s, reply, 0⟩

/-- The transaction when its reply begins, `out` being the byte shifted out while the last byte came in. -/
def Txn.beginReply (t : Txn) (out : Byte) (reply : List Byte) (payload : Nat) : Txn :=
  { Txn.quiet .reply with summary := t.summary, reply := reply, payload := payload, sdo := some out }

/-- End the take: the reply of port `p` begins (R158, R160). -/
def finishTake (p : Port) (out : Byte) : Except Fault Taken → StepOutcome
  | .error f => .fault f
  | .ok k => .next (k.state.modPort p fun q => { q with txn := q.txn.beginReply out k.reply k.payload })

/-- The completion of a byte on port `p`. While the port is IDLE, BLOCKED or HELD its clocks are ignored (R154, R155,
R165). Otherwise `k` says what the byte does in the phase the port is in. -/
def onByte (s : State) (p : Port) (k : Phase → StepOutcome) : StepOutcome :=
  match (s.port p).txn.phase with
  | .idle | .blocked | .held => .next s
  | ph => k ph

/-! ### Which row a byte is (R154, R157, R179) -/

/-- The row that the completion of command byte `b` is: the command it selects where that has no argument bytes, the
first byte of the command where it has, and BADCMD where it names no command (R157, the table of R179). -/
def commandRow (p : Port) (b : Byte) : Instr :=
  if b = cmdStatus then .status p
  else if b = cmdAttach then .attach p
  else if b = cmdDetach then .detach p
  else if b = cmdSeal then .sealMsg p
  else if b = cmdCancel then .cancel p
  else if b = cmdFetch then .fetch p
  else if b = cmdNotice then .notice p
  else if (argCount b).isSome then .argumentByteReceived p b
  else .badcmd p b

/-- The row that the last argument byte `b` of command `code` is, `args` being the argument bytes before it (R157,
R179); INSPECT by its kind byte (R174). -/
def lastArgumentRow (p : Port) (code : Byte) (args : List Byte) (b : Byte) : Option Instr :=
  if code = cmdSetport then some (.setport p b)
  else if code = cmdClear then some (.clear p b)
  else if code = cmdReserve then some (.reserve p b)
  else if code = cmdOpen then some (.openMsg p b)
  else if code = cmdPut then some (.put p b)
  else if code = cmdGet then some (.get p b)
  else if code = cmdRelease then some (.release p b)
  else if code = cmdForward then some (.forward p b)
  else if code = cmdPropose then some (.propose p b)
  else if code = cmdEndorse then some (.endorse p b)
  else if code = cmdDecline then some (.decline p b)
  else if code = cmdInspect then
    match inspectKindOf (argAt args 0) with
    | some .message => some (.inspectMessage p b)
    | some .pool => some (.inspectPool p b)
    | some .settings => some (.inspectSettings p b)
    | none => some (.inspectInvalidKind p b)
  else none

/-- The row that the completion of byte `b` on port `p` is, by the phase and the bytes collected (R154). In REPLY and
IGNORE the byte shifted in is ignored (R160), and the byte shifted out decides. None outside a transaction, and where
the collected bytes are those of no command. -/
def State.byteRow (s : State) (p : Port) (b : Byte) : Option Instr :=
  let t := (s.port p).txn
  match t.phase, t.collected with
  | .command, _ => some (commandRow p b)
  | .argument, code :: args =>
    if args.length + 1 < (argCount code).getD 0 then some (.argumentByteReceived p b)
    else if argCount code = some (args.length + 1) then lastArgumentRow p code args b
    else none
  | .data, _ => some (.putDataByte p b)
  | .reply, _ =>
    some (if t.pos < t.reply.length ∨ t.payload = 0 then .replyByteShiftedOut p else .getPayloadByte p)
  | .ignore, _ => if t.pos < t.reply.length ∨ t.payload = 0 then some (.replyByteShiftedOut p) else none
  | _, _ => none

/-- Row `row`, which the byte `b` completes, on port `p`: `k` where the completion of `b` is that row, and the event of
another row otherwise. -/
def onRow (s : State) (p : Port) (b : Byte) (row : Instr) (k : StepOutcome) : StepOutcome :=
  onByte s p fun _ => if s.byteRow p b = some row then k else .refused .otherEvent

/-- A command without argument bytes, the row `row`, taken as its command byte `code` completes (R157). -/
def takeCommandByte (s : State) (p : Port) (code : Byte) (row : Instr) (f : State → Except Fault Taken) :
    StepOutcome :=
  onRow s p code row (finishTake p (s.port p).txn.summary (f s))

/-- A command with argument bytes, the row `row`, taken at its last argument byte `b` (R157); `k` is given all its
argument bytes. -/
def takeArguments (s : State) (p : Port) (b : Byte) (row : Instr) (k : List Byte → StepOutcome) : StepOutcome :=
  onRow s p b row (k ((s.port p).txn.collected.tail ++ [b]))

/-- A command with argument bytes that replies at its take. -/
def takeCommand (s : State) (p : Port) (b : Byte) (row : Instr) (f : List Byte → State → Except Fault Taken) :
    StepOutcome :=
  takeArguments s p b row fun args => finishTake p 0 (f args s)

/-- Gating by an ATTACHED port (R159): on any other port the command is answered with `refusal`. -/
def whenAttached (s : State) (p : Port) (refusal : List Byte) (f : Except Fault Taken) : Except Fault Taken :=
  if s.attached p then f else replyWith s refusal

/-- The frame-error flag after the transaction of port `q` ends early, `clocks` clocks after its last whole byte
(R163, R164, R165). -/
def PortState.frameErrorAtEnd (q : PortState) (clocks : Nat) : Bool :=
  match q.txn.phase with
  | .command => q.frameError || decide (0 < clocks)
  | .argument | .data => true
  | .reply | .ignore | .idle | .blocked | .held => q.frameError

end Sys2Proof.Machine
end

