-- ==== Sys2Proof/Machine/PartEvents.lean ====
section
/-! DEFINITION. The events of the whole part and its internal events: chip reset, the tick, the expiries, the
proposal timeout, and teardown completion. An internal event that has nothing due leaves the state as it is. -/

namespace Sys2Proof.Machine

open Sys2Proof

/-- CHIP_RESET (R140, R166): RSTn falls. -/
def execChipReset (s : State) : StepOutcome := .next s.chipReset

/-- CHIP_RESET_RELEASE (R140, R154): RSTn rises. Every port listens, is BLOCKED, or stays HELD as its own lines stand,
and the first tick interval begins (R108). Without a rising edge nothing happens. -/
def execChipResetRelease (s : State) : StepOutcome :=
  if s.rstHigh then .next s
  else
    .next { s with
      rstHigh := true
      ports := s.ports.map fun q => { q with txn := Txn.quiet q.listeningPhase }
      interval := some s.tick }

/-- TICK (R108): every count goes down by one, then what has reached 0 is taken at the owners that `order` names, in
that order, and then at the rest. The cells that the tick returns join the free list in ascending order of record,
whichever of its consequences came first (R119, R38). No interval runs while RSTn is low, and no tick is delivered.

DESIGN CHOICE (unsafe, log entry 20): the receipts that a lease expiry and the expiries of one tick offer to a third
port follow the order of the two acts. -/
def execTick (order : List TickTask) (s : State) : StepOutcome :=
  if s.rstHigh then .next (s.returnedInOrder ((order ++ allTickTasks).foldl State.tickTask s.countdown)) else .next s

/-- Record `id` is in state `st` and its lifetime is over. -/
def State.dueIn (s : State) (id : Nat) (st : RecState) : Bool :=
  match s.record? id with
  | none => false
  | some r => r.state == st && r.lifetimeOver

/-- EXPIRY_OF_OPEN_RECORD (R112). -/
def execExpiryOfOpenRecord (id : Nat) (s : State) : StepOutcome :=
  if s.dueIn id .opened then .next ((s.expire id).retire [id]) else .next s

/-- EXPIRY_OF_SEALED_RECORD (R113). -/
def execExpiryOfSealedRecord (id : Nat) (s : State) : StepOutcome :=
  if s.dueIn id .sealed then .next ((s.expire id).retire [id]) else .next s

/-- LEASE_EXPIRY (R119). -/
def execLeaseExpiry (p : Port) (s : State) : StepOutcome := .next (s.expireLease p)

/-- PROPOSAL_TIMEOUT (R149). -/
def execProposalTimeout (s : State) : StepOutcome := .next s.timeOut

/-- TEARDOWN_COMPLETION (R132). A port that is not in TEARDOWN has no teardown to complete (R131). -/
def execTeardownCompletion (p : Port) (s : State) : StepOutcome :=
  if (s.port p).mode = .teardown then .next (s.teardownComplete p) else .next s

end Sys2Proof.Machine
end

