-- ==== Sys2Proof/Machine/PortCommands.lean ====
section
/-! DEFINITION. The commands on the port itself: STATUS, ATTACH, DETACH, SETPORT, CLEAR, RESERVE. -/

namespace Sys2Proof.Machine

open Sys2Proof

/-- The deposited length STATUS reports (R173). -/
def State.depositLength (s : State) (p : Port) : Nat :=
  match (s.port p).deposit with
  | .none => 0
  | .opened id => ((s.record? id).map Record.deposited).getD 0
  | .lapsed _ length => length

/-- The STATUS reply (R173, R182). -/
def State.statusReply (s : State) (p : Port) : List Byte :=
  let q := s.port p
  [Status.ok.code, modeByte q.mode, q.lastCause.code, q.deposit.code, byteOf q.deposit.id] ++
    twoBytes (s.depositLength p) ++
    [boolByte q.fetch.isSome, byteOf ((q.fetch.map FetchCtx.id).getD 0)] ++
    twoBytes ((q.fetch.map FetchCtx.offset).getD 0) ++
    [boolByte ((q.fetch.map FetchCtx.awaiting).getD false), byteOf q.intake, byteOf q.limit, byteOf q.express.length,
      byteOf q.bulk.length, byteOf q.streak, byteOf q.bias, byteOf q.notices.length, byteOf q.backlog.length,
      byteOf ((q.wait.map SpaceWait.cells).getD 0), ((q.wait.map fun w => w.cls.code).getD 0), causeByte q.causes,
      causeByte q.mask, boolByte q.frameError, byteOf q.leasePeriod, byteOf q.leaseCounter]

/-- STATUS (R173): taken in every port state, and it changes nothing but the transaction. -/
def execStatus (p : Port) (s : State) : StepOutcome :=
  takeCommandByte s p cmdStatus (.status p) fun s => replyWith s (s.statusReply p)

/-- ATTACH (R124). -/
def execAttach (p : Port) (s : State) : StepOutcome :=
  takeCommandByte s p cmdAttach (.attach p) fun s =>
    if (s.port p).mode = .detached then
      replyWith ((s.modPort p fun q => { q with mode := .attached, leaseCounter := q.leasePeriod }).offerPeers p true)
        [Status.ok.code, (s.port p).lastCause.code, portMask (s.attachedPorts.set p false)]
    else replyWith s [Status.state.code, (s.port p).lastCause.code, portMask noPorts]

/-- DETACH (R126): the reply is composed after the teardown start. -/
def execDetach (p : Port) (s : State) : StepOutcome :=
  takeCommandByte s p cmdDetach (.detach p) fun s =>
    whenAttached s p (Status.state.code :: zeros 3)
      (let t := s.teardownStart p .detach
      replyWith t
        [Status.ok.code, modeByte (t.port p).mode, byteOf (t.waitingDeliveries p), byteOf (t.port p).notices.length])

/-- The four port-own settings and the lease counter, as a SETPORT reply carries them (R172). -/
def PortState.settingsBytes (q : PortState) : List Byte :=
  [byteOf q.limit, byteOf q.bias, byteOf q.leasePeriod, causeByte q.mask, byteOf q.leaseCounter]

/-- The SETPORT arguments are in range (R172). -/
def setportInRange (limit bias : Nat) (mask : Byte) : Bool :=
  decide (1 ≤ limit ∧ limit ≤ Config.limitMax) && decide (1 ≤ bias ∧ bias ≤ Config.biasMax) && maskInRange mask

/-- SETPORT (R172). -/
def execSetport (p : Port) (mask : Byte) (s : State) : StepOutcome :=
  takeCommand s p mask (.setport p mask) fun args s =>
    whenAttached s p (Status.state.code :: (s.port p).settingsBytes)
      (let limit := (argAt args 0).toNat
      let bias := (argAt args 1).toNat
      let lease := (argAt args 2).toNat
      if setportInRange limit bias (argAt args 3) then
        let t := s.modPort p fun q =>
          { q with
            limit := limit, bias := bias, leasePeriod := lease, leaseCounter := lease, mask := causesOf (argAt args 3) }
        replyWith t (Status.ok.code :: (t.port p).settingsBytes)
      else replyWith s (Status.range.code :: (s.port p).settingsBytes))

/-- The causes and the frame-error flag, as a CLEAR reply carries them (R171). -/
def PortState.clearBytes (q : PortState) : List Byte := [causeByte q.causes, boolByte q.frameError]

/-- CLEAR (R171). -/
def execClear (p : Port) (items : Byte) (s : State) : StepOutcome :=
  takeCommand s p items (.clear p items) fun args s =>
    whenAttached s p (Status.state.code :: (s.port p).clearBytes)
      (let named := argAt args 0
      if itemsInRange named then
        let t := s.modPort p fun q =>
          { q with causes := q.causes.minus (causesOf named), frameError := q.frameError && !named.getLsbD 7 }
        replyWith t (Status.ok.code :: (t.port p).clearBytes)
      else replyWith s (Status.range.code :: (s.port p).clearBytes))

/-- A RESERVE in range: the reserve takes the granted size, and the space-wait check runs if the size changed
(R15, R16). -/
def State.resizeReserve (s : State) (p : Port) (c : Cls) (r : Nat) : State :=
  let a := (s.port p).reserve c
  let g := s.reserveGrant p c r
  let t := s.modPort p fun q => q.setReserve c ⟨g, (q.reserve c).charged⟩
  if g = a.size then t else t.waitCheck

/-- RESERVE (R14). -/
def execReserve (p : Port) (sizeLow : Byte) (s : State) : StepOutcome :=
  takeCommand s p sizeLow (.reserve p sizeLow) fun args s =>
    whenAttached s p (Status.state.code :: zeros 4)
      (match classOf (argAt args 0) with
      | none => replyWith s (Status.range.code :: zeros 4)
      | some c =>
        let r := argHalf args 1
        if r ≤ Config.reservePortMax then
          let t := s.resizeReserve p c r
          replyWith t (Status.ok.code :: (twoBytes ((t.port p).reserve c).size ++ twoBytes t.sharedFree))
        else replyWith s (Status.range.code :: (twoBytes ((s.port p).reserve c).size ++ zeros 2)))

end Sys2Proof.Machine
end

