-- ==== Sys2Proof/Machine/DepositCommands.lean ====
section
/-! DEFINITION. Depositing a message (spec chapter 03): OPEN, PUT and its data bytes, SEAL, CANCEL. -/

namespace Sys2Proof.Machine

open Sys2Proof

/-! ### OPEN -/

/-- The reason OPEN gives port `q`, the source being `p` (R50). -/
def State.openReason (s : State) (p : Port) (dests : PortSet) (q : Port) : Reason :=
  if dests.get q = false then .unnamed
  else if q = p then .self
  else if s.attached q = false then .notAttached
  else if (s.port q).limit ≤ (s.port q).intake then .limit
  else .admitted

/-- The ports with reason ADMITTED. -/
def admittedSet (reasons : PerPort Reason) : PortSet := reasons.map (· == .admitted)

/-- The refusal when no port is ADMITTED and `named` are the ports that count: FULL when there is one and every one
is at its limit, NODEST otherwise (R51, R87). -/
def noneAdmitted (reasons : PerPort Reason) (named : Port → Bool) : Status :=
  if allPorts.any named && allPorts.all fun q => !named q || reasons.get q == .limit then .full else .nodest

/-- The reasons before check 6: every one NOTCHECKED (R54). -/
def notChecked : PerPort Reason := PerPort.ofFn fun _ => .notChecked

/-- The reply of a refused OPEN (R54). -/
def openRefused (st : Status) (reasons : PerPort Reason) : List Byte :=
  [st.code] ++ zeros 4 ++ reasonBytes reasons ++ [optChargeByte none]

/-- The remaining lifetime loaded at OPEN (R110). -/
def loadLifetime (deflife lifetime : Nat) : Option Nat :=
  if lifetime = 0 then (if deflife = 0 then none else some deflife)
  else if lifetime = Config.noLifetime then none
  else some lifetime

/-- The account decided for `n` cells: no account for no cells (R7), and no answer for NOSPACE (R8). -/
def State.chargeFor (s : State) (p : Port) (c : Cls) (n : Nat) : Option (Option Charge) :=
  if n = 0 then some none else (s.chargeable p c n).map some

/-- The record an OPEN creates (R26). -/
def State.newRecord (s : State) (p : Port) (c : Cls) (a : OpenArgs) (admitted : PortSet) (account : Option Charge) :
    Record where
  state := .opened
  source := p
  serial := (s.port p).serial
  cls := c
  early := a.early
  receipt := a.receipt
  tag := a.tag
  declared := a.declared
  deposited := 0
  cells := s.freeList.take (cellsFor a.declared)
  account := account
  remaining := loadLifetime s.deflife a.lifetime
  expired := false
  abortCause := none
  deliveries := (allPorts.filter admitted.get).map fun q => ⟨q, none, .claimed⟩

/-- One unit of intake is claimed at each port of a set (R70). -/
def State.claim (s : State) (members : PortSet) : State :=
  (allPorts.filter members.get).foldl (fun t q => t.modPort q fun x => { x with intake := x.intake + 1 }) s

/-- The cells of a charge leave the free list and are charged to the account (R9). -/
def State.chargeCells (s : State) (p : Port) (c : Cls) (account : Option Charge) (n : Nat) : State :=
  match account with
  | none => s
  | some a => { s with freeList := s.freeList.drop n }.addCharge p c a n

/-- Complete an OPEN that has passed every check (R52). -/
def State.completeOpen (s : State) (p : Port) (c : Cls) (a : OpenArgs) (id : Nat) (admitted : PortSet)
    (account : Option Charge) : State :=
  let s1 := s.putRecord id (s.newRecord p c a admitted account)
  let s2 := s1.modPort p fun q => { q with serial := q.serial + 1 }
  let s3 := (s2.claim admitted).chargeCells p c account (cellsFor a.declared)
  let s4 := s3.modPort p fun q => { q with deposit := .opened id }
  if a.early then s4.publish id else s4

/-- Arm the space wait of `p` (R18). -/
def State.armWait (s : State) (p : Port) (w : SpaceWait) : State := s.modPort p fun q => { q with wait := some w }

/-- Checks 2 to 7 of an OPEN on ATTACHED port `p`, and its completion (R48, R54). -/
def State.takeOpen (s : State) (p : Port) (a : OpenArgs) : Except Fault Taken :=
  if (s.port p).deposit.isOpened then replyWith s (openRefused .busy notChecked)
  else
    match a.cls with
    | none => replyWith s (openRefused .range notChecked)
    | some c =>
      if a.dests.isEmpty || decide (Config.declaredMax < a.declared) then replyWith s (openRefused .range notChecked)
      else if Config.quota ≤ s.quotaCount p then replyWith s (openRefused .quota notChecked)
      else
        match s.lowestFree with
        | none => replyWith s (openRefused .table notChecked)
        | some id =>
          let reasons := PerPort.ofFn (s.openReason p a.dests)
          let admitted := admittedSet reasons
          let n := cellsFor a.declared
          if admitted.isEmpty then replyWith s (openRefused (noneAdmitted reasons a.dests.get) reasons)
          else
            match s.chargeFor p c n with
            | none => replyWith (if a.wait then s.armWait p ⟨n, c⟩ else s) (openRefused .nospace reasons)
            | some account =>
              replyWith (s.completeOpen p c a id admitted account)
                ([Status.ok.code, byteOf id] ++ twoBytes (s.port p).serial.toNat ++ [portMask admitted] ++
                  reasonBytes reasons ++ [optChargeByte account])

/-- OPEN (R48). -/
def execOpen (p : Port) (tagLow : Byte) (s : State) : StepOutcome :=
  takeCommand s p tagLow (.openMsg p tagLow) fun args s =>
    whenAttached s p (openRefused .state notChecked) (s.takeOpen p (openArgsOf args))

/-! ### PUT -/

/-- The status of a PUT at its take (R56). -/
def State.putStatus (s : State) (p : Port) : Status :=
  if s.attached p then
    match (s.port p).deposit with
    | .none => .noopen
    | .lapsed _ _ => .expired
    | .opened _ => .ok
  else .state

/-- PUT (R56, R161): taken at its count byte; a lapse is reported and cleared, and the phase becomes DATA. -/
def execPut (p : Port) (count : Byte) (s : State) : StepOutcome :=
  takeArguments s p count (.put p count) fun args =>
    let st := s.putStatus p
    .next (s.modPort p fun q =>
      { q with
        deposit := if st = .expired then .none else q.deposit
        txn :=
          { Txn.quiet .data with
            summary := q.txn.summary, sdo := some 0, put := ⟨countOf (argAt args 0), st, 0, false, 0⟩ } })

/-- Write one payload byte of record `id` at its deposited length, and wake its readers (R57). -/
def State.depositByte (s : State) (id : Nat) (r : Record) (addr : Nat) (b : Byte) : State :=
  ({ s with mem := Memory.write addr b s.mem }.putRecord id { r with deposited := r.deposited + 1 }).wakeReaders id

/-- One data byte of a PUT on port `p` (R57): the state, and the PUT as the byte leaves it. -/
def State.putByte (s : State) (p : Port) (b : Byte) : Except Fault (State × PutCtx) :=
  let u := (s.port p).txn.put
  let w := { u with left := u.left - 1 }
  if u.status = .ok then
    match (s.port p).deposit with
    | .none => .ok (s, w)
    | .lapsed _ length =>
      .ok (s.modPort p fun q => { q with deposit := .none }, { w with status := .expired, length := length })
    | .opened id =>
      match s.record? id with
      | none => .error .danglingRecord
      | some r =>
        if r.deposited < r.declared then
          match payloadAddr r.cells r.deposited with
          | none => .error .noPayloadByte
          | some a =>
            .ok (s.depositByte id r a b, { w with accepted := u.accepted + 1, length := r.deposited + 1 })
        else .ok (s, { w with overrun := true, length := r.deposited })
  else .ok (s, w)

/-- The PUT reply (R58). -/
def PutCtx.reply (u : PutCtx) : List Byte :=
  [(if u.status = .ok ∧ u.overrun = true then Status.overlen else u.status).code] ++ twoBytes u.accepted ++
    twoBytes u.length

/-- The transaction after a data byte: the reply begins after the last one (R161). -/
def Txn.afterData (t : Txn) (u : PutCtx) : Txn :=
  if u.left = 0 then t.beginReply 0 u.reply 0 else { t with put := u, sdo := some 0 }

/-- PUT_DATA_BYTE (R57, R161). -/
def execPutDataByte (p : Port) (b : Byte) (s : State) : StepOutcome :=
  onRow s p b (.putDataByte p b)
    (match s.putByte p b with
    | .error f => .fault f
    | .ok (t, u) => .next (t.modPort p fun q => { q with txn := q.txn.afterData u }))

/-! ### SEAL and CANCEL -/

/-- Close a LAPSED context: the command replies EXPIRED and the context becomes NONE (R66). -/
def State.endLapse (s : State) (p : Port) : State := s.modPort p fun q => { q with deposit := .none }

/-- Steps 1 and 2 of SEAL: the record becomes SEALED and its surplus cells return (R11, R27). -/
def State.trim (s : State) (id : Nat) (r : Record) : State :=
  let m := cellsFor r.deposited
  let r' := { r with
    state := .sealed, cells := r.cells.take m, account := if m = 0 then none else r.account }
  ((s.putRecord id r').returnCells r.source r.cls r.account (r.cells.drop m)).waitCheckIfFreed s

/-- Seal record `id` of port `p` (R27, R61, R81). -/
def State.sealRecord (s : State) (p : Port) (id : Nat) (r : Record) : State :=
  ((((s.trim id r).publish id).modPort p fun q => { q with deposit := .none }).wakeReaders id).retire [id]

/-- SEAL (R61). -/
def execSeal (p : Port) (s : State) : StepOutcome :=
  takeCommandByte s p cmdSeal (.sealMsg p) fun s =>
    whenAttached s p (Status.state.code :: zeros 3)
      (match (s.port p).deposit with
      | .none => replyWith s (Status.noopen.code :: zeros 3)
      | .lapsed _ _ => replyWith (s.endLapse p) (Status.expired.code :: zeros 3)
      | .opened id =>
        match s.record? id with
        | none => .error .danglingRecord
        | some r => replyWith (s.sealRecord p id r) ([Status.ok.code, byteOf id] ++ twoBytes r.deposited))

/-- Cancel record `id` of port `p` (R65). -/
def State.cancelRecord (s : State) (p : Port) (id : Nat) : State :=
  ((s.abort id .cancelled).modPort p fun q => { q with deposit := .none }).retire [id]

/-- CANCEL (R65). -/
def execCancel (p : Port) (s : State) : StepOutcome :=
  takeCommandByte s p cmdCancel (.cancel p) fun s =>
    whenAttached s p (Status.state.code :: zeros 1)
      (match (s.port p).deposit with
      | .none => replyWith s (Status.noopen.code :: zeros 1)
      | .lapsed _ _ => replyWith (s.endLapse p) (Status.expired.code :: zeros 1)
      | .opened id =>
        match s.record? id with
        | none => .error .danglingRecord
        | some _ => replyWith (s.cancelRecord p id) [Status.ok.code, byteOf id])

end Sys2Proof.Machine
end

