-- ==== Sys2Proof/Machine/ReadCommands.lean ====
section
/-! DEFINITION. Fetching and reading (spec chapter 04): FETCH, GET and its payload bytes, RELEASE, FORWARD. -/

namespace Sys2Proof.Machine

open Sys2Proof

/-! ### FETCH -/

/-- The fetch arbiter (R76): the queue a FETCH takes from, none for EMPTY, and the streak afterwards. -/
def PortState.arbitrate (q : PortState) : Option Cls × Nat :=
  if q.express.isEmpty then (if q.bulk.isEmpty then (none, 0) else (some .bulk, 0))
  else if q.bulk.isEmpty ∨ q.streak < q.bias then (some .express, min (q.streak + 1) Config.biasMax)
  else (some .bulk, 0)

/-- The reply of a FETCH that takes no message (R77). -/
def fetchRefused (st : Status) : List Byte := st.code :: (zeros 12 ++ [optPortByte none])

/-- The via of the entry to port `p`. -/
def Record.viaOf (r : Record) (p : Port) : Option Port :=
  match r.deliveries.find? fun e => e.port = p with
  | none => none
  | some e => e.via

/-- The FETCH reply (R77, R182). Bits 7 to 2 of its flags byte have no meaning, and read 0 (DESIGN CHOICE, unsafe: log
entry 21). -/
def Record.fetchReply (r : Record) (id : Nat) (p : Port) : List Byte :=
  let stillOpen := r.state == .opened
  [Status.ok.code, byteOf id, portByte r.source, r.cls.code, byteOf (yesNo r.early + 2 * yesNo stillOpen)] ++
    twoBytes r.tag.toNat ++ twoBytes r.serial.toNat ++ twoBytes r.deposited ++
    twoBytes (if stillOpen then r.declared else 0) ++ [optPortByte (r.viaOf p)]

/-- The entry of port `p` in record `id` leaves the head of its queue and becomes FETCHING (R77). -/
def State.beginFetch (s : State) (p : Port) (c : Cls) (id : Nat) (r : Record) (streak : Nat) : State :=
  (s.putRecord id (r.withStage p .fetching)).modPort p fun q =>
    { q.setQueue c (q.queue c).tail with streak := streak, fetch := some ⟨id, 0, false⟩ }

/-- FETCH (R75). -/
def execFetch (p : Port) (s : State) : StepOutcome :=
  takeCommandByte s p cmdFetch (.fetch p) fun s =>
    whenAttached s p (fetchRefused .state)
      (if (s.port p).fetch.isSome then replyWith s (fetchRefused .busy)
      else
        let (pick, streak) := (s.port p).arbitrate
        match pick with
        | none => replyWith (s.modPort p fun q => { q with streak := streak }) (fetchRefused .empty)
        | some c =>
          match ((s.port p).queue c).head? with
          | none => .error .danglingRecord
          | some id =>
            match s.record? id with
            | none => .error .danglingRecord
            | some r => replyWith (s.beginFetch p c id r streak) (r.fetchReply id p))

/-! ### GET -/

/-- The status and the count a GET fixes at its take (R79). No reader holds a REPORTING record (R39). -/
def Record.getResult (r : Record) (offset max : Nat) : Status × Nat :=
  let avail := r.deposited - offset
  match r.state with
  | .aborted | .reporting => (.trunc, 0)
  | .opened => if avail = 0 then (.wait, 0) else (.ok, min max avail)
  | .sealed => if avail = 0 then (.endOfMessage, 0) else (.ok, min max avail)

/-- The GET reply before its payload bytes (R162). -/
def getHead (st : Status) (count : Nat) : List Byte := st.code :: twoBytes count

/-- GET (R79). -/
def execGet (p : Port) (max : Byte) (s : State) : StepOutcome :=
  takeCommand s p max (.get p max) fun args s =>
    whenAttached s p (getHead .state 0)
      (match (s.port p).fetch with
      | none => replyWith s (getHead .nofetch 0)
      | some c =>
        match s.record? c.id with
        | none => .error .danglingRecord
        | some r =>
          let (st, count) := r.getResult c.offset (countOf (argAt args 0))
          .ok ⟨s.modPort p fun q => { q with fetch := some { c with awaiting := st == .wait } }, getHead st count,
            count⟩)

/-- The read offset grows by one (R80). -/
def PortState.advanceOffset (q : PortState) : PortState :=
  { q with fetch := q.fetch.map fun c => { c with offset := c.offset + 1 } }

/-- GET_PAYLOAD_BYTE (R80, R162): after the composed reply, a promised byte has been shifted out. -/
def execGetPayloadByte (p : Port) (s : State) : StepOutcome :=
  onByte s p fun ph =>
    let t := (s.port p).txn
    if ph = .reply ∧ t.reply.length ≤ t.pos ∧ 0 < t.payload then
      match s.payloadByte? p with
      | none => .fault .noPayloadByte
      | some b =>
        .next (s.modPort p fun q =>
          { q.advanceOffset with txn := { q.txn with payload := q.txn.payload - 1, sdo := some b } })
    else .refused .otherEvent

/-! ### RELEASE -/

/-- How a RELEASE ends the delivery; none returns it to its queue (R83). -/
def Record.releaseFate (r : Record) (d : Disposition) : Option Fate :=
  match r.state, d with
  | .aborted, _ => some .truncated
  | _, .accept => some .accepted
  | _, .refuse => some .refused
  | .sealed, .defer => if r.expired then some .expired else none
  | _, .defer => none

/-- End the delivery of port `p` in record `id` with an outcome, and run the retire check (R84). -/
def State.endFetch (s : State) (p : Port) (id : Nat) (f : Fate) : State :=
  ((s.modPort p fun q => { q with fetch := none }).endDeliveries id fun e =>
    if e.port = p ∧ e.stage = .fetching then some f else none).retire [id]

/-- Return the delivery of port `p` to the head of its queue (R85). -/
def State.deferFetch (s : State) (p : Port) (id : Nat) (r : Record) : State :=
  (s.putRecord id (r.withStage p .queued)).modPort p fun q =>
    { q.setQueue r.cls (id :: q.queue r.cls) with fetch := none }

/-- RELEASE (R83). -/
def execRelease (p : Port) (disposition : Byte) (s : State) : StepOutcome :=
  takeCommand s p disposition (.release p disposition) fun args s =>
    whenAttached s p (Status.state.code :: zeros 2)
      (match (s.port p).fetch with
      | none => replyWith s (Status.nofetch.code :: zeros 2)
      | some c =>
        match dispositionOf (argAt args 0) with
        | none => replyWith s (Status.range.code :: zeros 2)
        | some d =>
          match s.record? c.id with
          | none => .error .danglingRecord
          | some r =>
            match r.releaseFate d with
            | some f => replyWith (s.endFetch p c.id f) [Status.ok.code, byteOf c.id, f.code]
            | none => replyWith (s.deferFetch p c.id r) [Status.ok.code, byteOf c.id, resultDeferred])

/-! ### FORWARD -/

/-- The reason FORWARD on port `p` gives port `q` (R87). -/
def State.forwardReason (s : State) (p : Port) (r : Record) (dests : PortSet) (q : Port) : Reason :=
  if dests.get q = false then .unnamed
  else if q = p then .self
  else if r.deliveries.any fun e => e.port = q then .present
  else if s.attached q = false then .notAttached
  else if (s.port q).limit ≤ (s.port q).intake then .limit
  else .admitted

/-- The reply of a refused FORWARD (R86). -/
def forwardRefused (st : Status) (reasons : PerPort Reason) : List Byte :=
  [st.code, portMask noPorts] ++ reasonBytes reasons

/-- Add the QUEUED deliveries of a FORWARD by `p` (R88). -/
def State.completeForward (s : State) (p : Port) (id : Nat) (r : Record) (admitted : PortSet) : State :=
  let added := allPorts.filter admitted.get
  added.foldl
    (fun t q =>
      (t.modPort q fun x => { x.setQueue r.cls (x.queue r.cls ++ [id]) with intake := x.intake + 1 }).raise q .arrival)
    (s.putRecord id { r with deliveries := r.deliveries ++ added.map fun q => ⟨q, some p, .queued⟩ })

/-- Checks 3 to 6 of a FORWARD of record `id` by port `p`, and its completion (R86). -/
def State.takeForward (s : State) (p : Port) (dests : PortSet) (id : Nat) (r : Record) : Except Fault Taken :=
  if dests.isEmpty then replyWith s (forwardRefused .range notChecked)
  else if r.state ≠ .sealed then replyWith s (forwardRefused .state notChecked)
  else if r.expired then replyWith s (forwardRefused .expired notChecked)
  else
    let reasons := PerPort.ofFn (s.forwardReason p r dests)
    let admitted := admittedSet reasons
    if admitted.isEmpty then
      replyWith s (forwardRefused (noneAdmitted reasons fun q => dests.get q && q != p) reasons)
    else
      replyWith (s.completeForward p id r admitted) ([Status.ok.code, portMask admitted] ++ reasonBytes reasons)

/-- FORWARD (R86). -/
def execForward (p : Port) (dests : Byte) (s : State) : StepOutcome :=
  takeCommand s p dests (.forward p dests) fun args s =>
    whenAttached s p (forwardRefused .state notChecked)
      (match (s.port p).fetch with
      | none => replyWith s (forwardRefused .nofetch notChecked)
      | some c =>
        match s.record? c.id with
        | none => .error .danglingRecord
        | some r => s.takeForward p (maskPorts (argAt args 0)) c.id r)

end Sys2Proof.Machine
end

