-- ==== Sys2Proof/Machine/SerialEvents.lean ====
section
/-! DEFINITION. The events of the serial host port (spec chapter 09): select, the port reset line, the bytes before a
take, the reply bytes, and an unrecognised command byte. -/

namespace Sys2Proof.Machine

open Sys2Proof

/-- BADCMD (R157): the BADCMD reply begins, and nothing else changes. -/
def execBadcmd (p : Port) (b : Byte) (s : State) : StepOutcome :=
  onRow s p b (.badcmd p b)
    (.next (s.modPort p fun q =>
      { q with txn := { q.txn.beginReply q.txn.summary [Status.badcmd.code] 0 with phase := .ignore } }))

/-- SELECT_FALL (R154, R156). Without a falling edge, select being low already, nothing happens. -/
def execSelectFall (p : Port) (s : State) : StepOutcome :=
  if (s.port p).selHigh then
    .next (s.modPort p fun q =>
      { q with
        selHigh := false
        txn := if q.txn.phase = .idle then { Txn.quiet .command with summary := q.summaryByte } else q.txn })
  else .next s

/-- A port at a rising select (R163): the transaction ends, and its end reloads the lease counter of an ATTACHED
port (R117). -/
def PortState.selectRise (q : PortState) (clocks : Nat) : PortState :=
  { q with
    selHigh := true
    frameError := q.frameErrorAtEnd clocks
    leaseCounter := if q.txn.phase.inTransaction && q.mode == .attached then q.leasePeriod else q.leaseCounter
    txn := if q.txn.phase = .held then q.txn else Txn.quiet .idle }

/-- SELECT_RISE (R163). Without a rising edge nothing happens. -/
def execSelectRise (p : Port) (clocks : Nat) (s : State) : StepOutcome :=
  if (s.port p).selHigh then .next s else .next (s.modPort p fun q => q.selectRise clocks)

/-- A port at a falling port reset line, before any teardown start: the transaction is abandoned (R165). -/
def PortState.resetFall (q : PortState) (clocks : Nat) : PortState :=
  { q with prstHigh := false, frameError := q.frameErrorAtEnd clocks, txn := Txn.quiet .held }

/-- PORT_RESET_FALL (R127, R165). Without a falling edge nothing happens. -/
def execPortResetFall (p : Port) (clocks : Nat) (s : State) : StepOutcome :=
  if (s.port p).prstHigh then
    let t := s.modPort p fun q => q.resetFall clocks
    .next (if s.attached p then t.teardownStart p .portReset else t)
  else .next s

/-- PORT_RESET_RISE (R154, R165). While RSTn is low the port stays HELD. Without a rising edge nothing happens. -/
def execPortResetRise (p : Port) (s : State) : StepOutcome :=
  if (s.port p).prstHigh then .next s
  else
    .next (s.modPort p fun q =>
      { q with
        prstHigh := true
        txn := Txn.quiet (if s.rstHigh then { q with prstHigh := true }.listeningPhase else .held) })

/-- The transaction after one more byte is collected, the command byte first. -/
def Txn.collect (t : Txn) (b : Byte) : Txn :=
  if t.phase = .command then { t with phase := .argument, collected := [b], sdo := some t.summary }
  else { t with collected := t.collected ++ [b], sdo := some 0 }

/-- ARGUMENT_BYTE_RECEIVED (R154, R157): a command byte that names a command with argument bytes, or an argument byte
that is not the last, is collected. -/
def execArgumentByteReceived (p : Port) (b : Byte) (s : State) : StepOutcome :=
  onRow s p b (.argumentByteReceived p b) (.next (s.modPort p fun q => { q with txn := q.txn.collect b }))

/-- The transaction after one more reply byte: the next byte of the composed reply, or fill 0x00 after its end. -/
def Txn.shiftReply (t : Txn) : Txn :=
  match t.reply[t.pos]? with
  | some b => { t with pos := t.pos + 1, sdo := some b }
  | none => { t with sdo := some 0 }

/-- REPLY_BYTE_SHIFTED_OUT (R155, R160). A byte that is a promised payload byte is GET_PAYLOAD_BYTE's. -/
def execReplyByteShiftedOut (p : Port) (s : State) : StepOutcome :=
  onByte s p fun ph =>
    let t := (s.port p).txn
    if (ph = .reply ∨ ph = .ignore) ∧ (t.pos < t.reply.length ∨ t.payload = 0) then
      .next (s.modPort p fun q => { q with txn := q.txn.shiftReply })
    else .refused .otherEvent

end Sys2Proof.Machine
end

