-- ==== Sys2Proof/Machine/SharedCommands.lean ====
section
/-! DEFINITION. Notices, agreement and inspection: NOTICE, RECEIPT_POSTING, PROPOSE, ENDORSE, DECLINE, and the four
kinds of INSPECT. -/

namespace Sys2Proof.Machine

open Sys2Proof

/-! ### Notices -/

/-- The head notice leaves the queue, and the posting check runs (R101, R102). -/
def State.removeNotice (s : State) (p : Port) : State :=
  (s.modPort p fun q => { q with notices := q.notices.tail }).postingCheck p

/-- NOTICE (R101). -/
def execNotice (p : Port) (s : State) : StepOutcome :=
  takeCommandByte s p cmdNotice (.notice p) fun s =>
    whenAttached s p (Status.state.code :: zeros 2)
      (match (s.port p).notices with
      | [] => replyWith s (Status.empty.code :: zeros 2)
      | n :: _ =>
        let t := s.removeNotice p
        replyWith t ([Status.ok.code, byteOf (t.port p).notices.length] ++ n.bytes))

/-- RECEIPT_POSTING (R102): the posting check as an event of its own. Where the queue holds 28 notices or more or the
backlog is empty, nothing is posted. -/
def execReceiptPosting (p : Port) (s : State) : StepOutcome := .next (s.postingCheck p)

/-! ### Agreement -/

/-- The proposal a PROPOSE on port `p` makes (R144). -/
def State.newProposal (s : State) (p : Port) (st : Setting) (value : Nat) : Proposal where
  setting := st
  value := value
  proposer := p
  required := s.attachedPorts
  endorsers := noPorts.set p true
  remaining := Config.agreementTicks

/-- Fill the slot with a new proposal, or adopt it at once where the proposer is alone (R144). -/
def State.makeProposal (s : State) (a : Proposal) : State :=
  if a.endorsers = a.required then s.adopt a
  else { s with slot := some a }.offerAgreements (a.notice .proposed) (a.required.set a.proposer false)

/-- The agreement result of a slot after a command that passed (R144, R145). -/
def agreementResult (slot : Option Proposal) : Byte := if slot.isSome then resultPending else resultAdopted

/-- PROPOSE (R143, R144). -/
def execPropose (p : Port) (valueLow : Byte) (s : State) : StepOutcome :=
  takeCommand s p valueLow (.propose p valueLow) fun args s =>
    whenAttached s p (Status.state.code :: zeros 2)
      (if s.slot.isSome then replyWith s (Status.busy.code :: zeros 2)
      else
        match settingOf (argAt args 0) with
        | none => replyWith s (Status.range.code :: zeros 2)
        | some st =>
          if st.inRange (argHalf args 1) then
            let a := s.newProposal p st (argHalf args 1)
            let t := s.makeProposal a
            replyWith t [Status.ok.code, portMask a.required, agreementResult t.slot]
          else replyWith s (Status.range.code :: zeros 2))

/-- Ports of the required set that have not endorsed (R145). -/
def Proposal.outstanding (a : Proposal) : PortSet := PerPort.ofFn fun q => a.required.get q && !a.endorsers.get q

/-- Add `p` to the endorsers; the proposal is adopted if it was the last one missing (R145). An endorsement by a
port that has endorsed already changes nothing. -/
def State.endorse (s : State) (p : Port) (a : Proposal) : State :=
  if a.endorsers.get p then s else s.holdOrAdopt { a with endorsers := a.endorsers.set p true }

/-- ENDORSE (R145). -/
def execEndorse (p : Port) (valueLow : Byte) (s : State) : StepOutcome :=
  takeCommand s p valueLow (.endorse p valueLow) fun args s =>
    whenAttached s p (Status.state.code :: zeros 2)
      (match s.slot with
      | none => replyWith s (Status.empty.code :: zeros 2)
      | some a =>
        if settingOf (argAt args 0) ≠ some a.setting ∨ argHalf args 1 ≠ a.value then
          replyWith s (Status.mismatch.code :: zeros 2)
        else if a.required.get p = false then replyWith s (Status.notreq.code :: zeros 2)
        else
          let t := s.endorse p a
          replyWith t
            [Status.ok.code, agreementResult t.slot, portMask ((t.slot.map Proposal.outstanding).getD noPorts)])

/-- DECLINE (R146). -/
def execDecline (p : Port) (setting : Byte) (s : State) : StepOutcome :=
  takeCommand s p setting (.decline p setting) fun args s =>
    whenAttached s p [Status.state.code]
      (match s.slot with
      | none => replyWith s [Status.empty.code]
      | some a =>
        if settingOf (argAt args 0) ≠ some a.setting then replyWith s [Status.mismatch.code]
        else if a.required.get p = false then replyWith s [Status.notreq.code]
        else replyWith (s.endProposal (a.notice .declined (some p)) a.required) [Status.ok.code])

/-! ### INSPECT -/

/-- The port may inspect the record: it is its source, or a port of its delivery list (R175). -/
def Record.openTo (r : Record) (p : Port) : Bool := r.source == p || r.deliveries.any fun e => e.port == p

/-- The INSPECT MESSAGE reply of a record that is not FREE (R176, R182). Bits 7 to 3 of its flags byte have no meaning,
and read 0 (DESIGN CHOICE, unsafe: log entry 21). -/
def Record.inspectReply (r : Record) : List Byte :=
  [Status.ok.code, r.state.code, portByte r.source] ++ twoBytes r.serial.toNat ++
    [r.cls.code, byteOf (yesNo r.early + 2 * yesNo r.receipt + 4 * yesNo r.expired)] ++ twoBytes r.tag.toNat ++
    twoBytes r.declared ++ twoBytes r.deposited ++ [byteOf r.cells.length, optChargeByte r.account] ++
    twoBytes (r.remaining.getD 0) ++ [abortCauseByte r.abortCause, byteOf r.deliveries.length] ++
    r.deliveries.flatMap fun e => [portByte e.port, optPortByte e.via, e.stage.code, optFateByte e.stage.fate]

/-- INSPECT of kind MESSAGE (R175). -/
def execInspectMessage (p : Port) (id : Byte) (s : State) : StepOutcome :=
  takeCommand s p id (.inspectMessage p id) fun _ s =>
    whenAttached s p (Status.state.code :: zeros 18)
      (match s.record? id.toNat with
      | none => replyWith s (Status.ok.code :: zeros 18)
      | some r =>
        if r.openTo p then replyWith s r.inspectReply else replyWith s (Status.denied.code :: zeros 18))

/-- The size and the charged count of an account. -/
def Account.bytes (a : Account) : List Byte := twoBytes a.size ++ twoBytes a.charged

/-- The INSPECT POOL reply (R177, R182). -/
def State.poolReply (s : State) : List Byte :=
  [Status.ok.code] ++ (allPorts.flatMap fun p => (s.port p).resExpress.bytes ++ (s.port p).resBulk.bytes) ++
    Account.bytes ⟨s.sharedSize, s.sharedCharged⟩ ++ twoBytes s.freeList.length

/-- INSPECT of kind POOL (R177). -/
def execInspectPool (p : Port) (id : Byte) (s : State) : StepOutcome :=
  takeCommand s p id (.inspectPool p id) fun _ s =>
    whenAttached s p (Status.state.code :: zeros 38) (replyWith s s.poolReply)

/-- The slot fields of an INSPECT SETTINGS reply (R178, R182). -/
def slotBytes : Option Proposal → List Byte
  | none => zeros 8
  | some a =>
    [0x01, a.setting.code] ++ twoBytes a.value ++
      [portByte a.proposer, portMask a.required, portMask a.endorsers, byteOf a.remaining]

/-- The INSPECT SETTINGS reply (R178, R182). -/
def State.settingsReply (s : State) : List Byte :=
  [Status.ok.code, byteOf s.tick, byteOf s.guard] ++ twoBytes s.deflife ++ slotBytes s.slot

/-- INSPECT of kind SETTINGS (R178). -/
def execInspectSettings (p : Port) (id : Byte) (s : State) : StepOutcome :=
  takeCommand s p id (.inspectSettings p id) fun _ s =>
    whenAttached s p (Status.state.code :: zeros 12) (replyWith s s.settingsReply)

/-- INSPECT with a kind code that names no kind (R174, R182): the status byte alone. -/
def execInspectInvalidKind (p : Port) (id : Byte) (s : State) : StepOutcome :=
  takeCommand s p id (.inspectInvalidKind p id) fun _ s =>
    whenAttached s p [Status.state.code] (replyWith s [Status.range.code])

end Sys2Proof.Machine
end

