-- ==== Sys2Proof/Machine/Dispatch.lean ====
section
/-! DEFINITION. One arm per row of the table: the meaning of each command and event. -/

namespace Sys2Proof.Machine

open Sys2Proof

def exec (i : Instr) (s : State) : Host.Outcome State Fault Refusal :=
  match i with
  | .status p => Sys2Proof.Machine.execStatus p s
  | .attach p => Sys2Proof.Machine.execAttach p s
  | .detach p => Sys2Proof.Machine.execDetach p s
  | .setport p mask => Sys2Proof.Machine.execSetport p mask s
  | .clear p items => Sys2Proof.Machine.execClear p items s
  | .reserve p sizeLow => Sys2Proof.Machine.execReserve p sizeLow s
  | .openMsg p tagLow => Sys2Proof.Machine.execOpen p tagLow s
  | .put p count => Sys2Proof.Machine.execPut p count s
  | .putDataByte p b => Sys2Proof.Machine.execPutDataByte p b s
  | .sealMsg p => Sys2Proof.Machine.execSeal p s
  | .cancel p => Sys2Proof.Machine.execCancel p s
  | .fetch p => Sys2Proof.Machine.execFetch p s
  | .get p max => Sys2Proof.Machine.execGet p max s
  | .getPayloadByte p => Sys2Proof.Machine.execGetPayloadByte p s
  | .release p disposition => Sys2Proof.Machine.execRelease p disposition s
  | .forward p dests => Sys2Proof.Machine.execForward p dests s
  | .notice p => Sys2Proof.Machine.execNotice p s
  | .propose p valueLow => Sys2Proof.Machine.execPropose p valueLow s
  | .endorse p valueLow => Sys2Proof.Machine.execEndorse p valueLow s
  | .decline p setting => Sys2Proof.Machine.execDecline p setting s
  | .inspectMessage p id => Sys2Proof.Machine.execInspectMessage p id s
  | .inspectPool p id => Sys2Proof.Machine.execInspectPool p id s
  | .inspectSettings p id => Sys2Proof.Machine.execInspectSettings p id s
  | .badcmd p b => Sys2Proof.Machine.execBadcmd p b s
  | .selectFall p => Sys2Proof.Machine.execSelectFall p s
  | .selectRise p clocks => Sys2Proof.Machine.execSelectRise p clocks s
  | .portResetFall p clocks => Sys2Proof.Machine.execPortResetFall p clocks s
  | .portResetRise p => Sys2Proof.Machine.execPortResetRise p s
  | .chipReset => Sys2Proof.Machine.execChipReset s
  | .chipResetRelease => Sys2Proof.Machine.execChipResetRelease s
  | .tick order => Sys2Proof.Machine.execTick order s
  | .expiryOfOpenRecord id => Sys2Proof.Machine.execExpiryOfOpenRecord id s
  | .expiryOfSealedRecord id => Sys2Proof.Machine.execExpiryOfSealedRecord id s
  | .leaseExpiry p => Sys2Proof.Machine.execLeaseExpiry p s
  | .proposalTimeout => Sys2Proof.Machine.execProposalTimeout s
  | .teardownCompletion p => Sys2Proof.Machine.execTeardownCompletion p s
  | .receiptPosting p => Sys2Proof.Machine.execReceiptPosting p s
  | .argumentByteReceived p b => Sys2Proof.Machine.execArgumentByteReceived p b s
  | .replyByteShiftedOut p => Sys2Proof.Machine.execReplyByteShiftedOut p s
  | .inspectInvalidKind p id => Sys2Proof.Machine.execInspectInvalidKind p id s

end Sys2Proof.Machine
end

