-- ==== Sys2Proof/Safety.lean ====
section
/-! DEFINITION. What counts as a safe run: the relations that the spec says hold at every moment, each as a predicate
of one state. -/

namespace Sys2Proof

/-- The port a row names; none for a row of the whole part. -/
def Instr.port? : Instr → Option Port
  | .status p | .attach p | .detach p | .setport p _ | .clear p _ | .reserve p _ | .openMsg p _ | .put p _
  | .putDataByte p _ | .sealMsg p | .cancel p | .fetch p | .get p _ | .getPayloadByte p | .release p _
  | .forward p _ | .notice p | .propose p _ | .endorse p _ | .decline p _ | .inspectMessage p _ | .inspectPool p _
  | .inspectSettings p _ | .badcmd p _ | .selectFall p | .selectRise p _ | .portResetFall p _ | .portResetRise p
  | .leaseExpiry p | .teardownCompletion p | .receiptPosting p | .argumentByteReceived p _ | .replyByteShiftedOut p
  | .inspectInvalidKind p _ => some p
  | .chipReset | .chipResetRelease | .tick _ | .expiryOfOpenRecord _ | .expiryOfSealedRecord _
  | .proposalTimeout => none

/-- The rows that can offer port `p` a notice: a PEER notice about another port (R133), an AGREEMENT notice, or the
receipt of a record that the row retires (R97). -/
def Instr.offersNotice (p : Port) : Instr → Bool
  | .attach x | .detach x | .portResetFall x _ | .leaseExpiry x | .teardownCompletion x => x != p
  | .sealMsg _ | .cancel _ | .release .. | .propose .. | .endorse .. | .decline .. | .tick _ | .expiryOfOpenRecord _
  | .expiryOfSealedRecord _ | .proposalTimeout => true
  | .status _ | .setport .. | .clear .. | .reserve .. | .openMsg .. | .put .. | .putDataByte .. | .fetch _ | .get ..
  | .getPayloadByte _ | .forward .. | .notice _ | .inspectMessage .. | .inspectPool .. | .inspectSettings ..
  | .inspectInvalidKind .. | .badcmd .. | .selectFall _ | .selectRise .. | .portResetRise _ | .chipReset
  | .chipResetRelease | .receiptPosting _ | .argumentByteReceived .. | .replyByteShiftedOut _ => false

end Sys2Proof

namespace Sys2Proof.Machine

open Sys2Proof

/-- Every step from a state that satisfies `I` to a next state keeps `I`. -/
def Kept (I : State → Prop) : Prop := ∀ s t : State, I s → step s = .next t → I t

/-! ### Memory and records -/

/-- The payload store is in its canonical form. -/
def MemoryOk (s : State) : Prop := Memory.wf s.mem = true

/-- The records that are not FREE have distinct ids, 0 to 255 (R23). -/
def TableOk (s : State) : Prop :=
  (s.records.map (·.1)).Pairwise (· < ·) ∧ ∀ e ∈ s.records, e.1 < Config.recordCount

/-! ### The pool (spec chapter 01) -/

/-- The cells of every record (R2). -/
def State.heldCells (s : State) : List Nat := s.records.flatMap fun e => e.2.cells

/-- The cells of the records that satisfy `c`. -/
def State.cellsWhere (s : State) (c : Record → Bool) : Nat :=
  (s.records.map fun e => if c e.2 then e.2.cells.length else 0).sum

/-- The record is charged to reserve(p, c). -/
def Record.chargedTo (p : Port) (c : Cls) (r : Record) : Bool :=
  r.source == p && r.cls == c && r.account == some .reserve

/-- The record is charged to SHARED. -/
def Record.chargedShared (r : Record) : Bool := r.account == some .shared

/-- The laws of the pool: every cell is free or in one record (R2), charged counts are what the records hold (R3),
the sizes keep their bounds (R4), no account is overcharged (R5), and a REPORTING record holds no cell. -/
structure PoolOk (s : State) : Prop where
  table : TableOk s
  cells : (s.freeList ++ s.heldCells).Perm (List.range Config.cellCount)
  account : ∀ e ∈ s.records, e.2.cells = [] ↔ e.2.account = none
  reporting : ∀ e ∈ s.records, e.2.state = .reporting → e.2.cells = []
  reserves : ∀ p c, ((s.port p).reserve c).charged = s.cellsWhere (Record.chargedTo p c)
  shared : s.sharedCharged = s.cellsWhere Record.chargedShared
  reserveRoom : ∀ p c, ((s.port p).reserve c).charged ≤ ((s.port p).reserve c).size
  sharedRoom : s.sharedCharged ≤ s.sharedSize
  sum : s.reserveSum ≤ Config.reserveSumMax
  perPort : ∀ p, (s.port p).reserveSize ≤ Config.reservePortMax

/-- The cells of a charge can be taken: from the reserve of the port, or from SHARED under the guard (R8, R19). -/
abbrev State.canCharge (s : State) (p : Port) (c : Cls) (n : Nat) : Prop :=
  n ≤ ((s.port p).reserve c).size - ((s.port p).reserve c).charged ∨
    n ≤ s.sharedSize - s.sharedCharged ∧ (c = .express ∨ s.guard ≤ s.sharedSize - s.sharedCharged - n)

/-- No armed space wait can be charged: every event that could satisfy one has run the space-wait check (R19). -/
def WaitsOk (s : State) : Prop := ∀ p w, (s.port p).wait = some w → ¬ s.canCharge p w.cls w.cells

/-- The lengths of a record and its cells agree (R25). -/
def Record.lengthsOk (r : Record) : Prop :=
  r.deposited ≤ r.declared ∧ r.declared ≤ Config.declaredMax ∧
    match r.state with
    | .opened | .aborted => r.cells.length = cellsFor r.declared
    | .sealed => r.cells.length = cellsFor r.deposited
    | .reporting => r.cells = []

/-! ### Notices (spec chapter 05) -/

/-- The transition count of a PEER notice is 1 to 255 (R94). -/
def Notice.countOk : Notice → Bool
  | .peer _ _ k => decide (1 ≤ k ∧ k ≤ Config.transitionsMax)
  | _ => true

/-- The notice queue of port `p` (R96): one PEER notice about a peer at most, none about itself, one AGREEMENT notice
at most, and beyond 28 notices only those that are not receipts. -/
structure QueueOk (p : Port) (ns : List Notice) : Prop where
  peers : ∀ r, ns.countP (Notice.isPeerOf r) ≤ 1
  notSelf : ns.countP (Notice.isPeerOf p) = 0
  agreements : ns.countP Notice.isAgreement ≤ 1
  bound : ns.length ≤ Config.noticeThreshold + ns.countP fun n => !n.isReceipt
  counts : ∀ n ∈ ns, n.countOk = true

def NoticesOk (s : State) : Prop := ∀ p, QueueOk p (s.port p).notices

/-! ### Contexts and the backlog (R45, R97, R102) -/

/-- Deposit contexts name exactly the OPEN records of their ports (R45), and backlogs exactly the REPORTING records of
their ports (R97), which exist only while 28 notices or more are held (R102). -/
structure BooksOk (s : State) : Prop where
  table : TableOk s
  deposit : ∀ p id, (s.port p).deposit = .opened id ↔ ∃ r, s.record? id = some r ∧ r.state = .opened ∧ r.source = p
  depositMode : ∀ p, (s.port p).deposit ≠ .none → s.attached p = true
  backlog : ∀ p id, id ∈ (s.port p).backlog ↔ ∃ r, s.record? id = some r ∧ r.state = .reporting ∧ r.source = p
  backlogOnce : ∀ p, (s.port p).backlog.Nodup
  backlogMode : ∀ p, (s.port p).backlog ≠ [] → s.attached p = true
  backlogFull : ∀ p, (s.port p).backlog ≠ [] → Config.noticeThreshold ≤ (s.port p).notices.length

/-- The pool and the contexts are in order, and so are the lengths of every record (R25). -/
structure LengthsOk (s : State) : Prop where
  pool : PoolOk s
  books : BooksOk s
  lengths : ∀ e ∈ s.records, e.2.lengthsOk

/-! ### Deliveries (spec chapters 02 and 04) -/

/-- The stages a delivery may stand in, by the state of its record (R23, R74). -/
def Record.stageOk (r : Record) (st : Stage) : Bool :=
  match r.state, st with
  | _, .done _ => true
  | .opened, .claimed => !r.early
  | .opened, _ => r.early
  | .sealed, .claimed => false
  | .sealed, .queued => !r.expired
  | .sealed, .fetching => true
  | .aborted, .fetching => true
  | .aborted, _ => false
  | .reporting, _ => false

/-- A delivery list names one to four ports, none twice (R31), in stages its record allows, and an OPEN record has not
expired (R112). -/
structure ListOk (r : Record) : Prop where
  nonempty : r.deliveries ≠ []
  once : (r.deliveries.map Entry.port).Nodup
  stages : ∀ e ∈ r.deliveries, r.stageOk e.stage = true
  fresh : r.state = .opened → r.expired = false

/-- The entry is a delivery to `p` that has not ended. -/
def Entry.pendingAt (p : Port) (e : Entry) : Bool := e.port == p && !e.stage.isDone

/-- The deliveries to `p` in stage CLAIMED, QUEUED or FETCHING (R70). -/
def State.pendingDeliveries (s : State) (p : Port) : Nat :=
  (s.records.map fun e => e.2.deliveries.countP (Entry.pendingAt p)).sum

/-- Record `id` holds a delivery to `p` in stage `st`. -/
def State.holds (s : State) (p : Port) (st : Stage) (id : Nat) : Prop :=
  ∃ r, s.record? id = some r ∧ ∃ e ∈ r.deliveries, e.port = p ∧ e.stage = st

/-- Queues, fetch contexts and intake counts agree with the stages of the deliveries (R68, R70, R75). -/
structure DeliveriesOk (s : State) : Prop where
  books : BooksOk s
  lists : ∀ e ∈ s.records, ListOk e.2
  queued : ∀ p c id, id ∈ (s.port p).queue c ↔ s.holds p .queued id ∧ ∃ r, s.record? id = some r ∧ r.cls = c
  queuedOnce : ∀ p c, ((s.port p).queue c).Nodup
  fetching : ∀ p id, (∃ c, (s.port p).fetch = some c ∧ c.id = id) ↔ s.holds p .fetching id
  fetchMode : ∀ p, (s.port p).fetch ≠ none → s.attached p = true
  intake : ∀ p, (s.port p).intake = s.pendingDeliveries p
  detached : ∀ p, (s.port p).mode = .detached → s.pendingDeliveries p = 0

/-- The intake count never exceeds 128 (R70). -/
def IntakeOk (s : State) : Prop := ∀ p, (s.port p).limit ≤ Config.limitMax ∧ (s.port p).intake ≤ Config.limitMax

/-! ### Settings and agreement -/

/-- Every setting is in its range (R69, R116, R135, R141, R172). -/
structure SettingsOk (s : State) : Prop where
  tick : s.tick ≤ 3
  guard : s.guard ≤ 64
  deflife : s.deflife ≤ 65535
  slot : ∀ a, s.slot = some a → a.setting.inRange a.value = true ∧ a.value ≤ 65535
  limit : ∀ p, 1 ≤ (s.port p).limit ∧ (s.port p).limit ≤ Config.limitMax
  bias : ∀ p, 1 ≤ (s.port p).bias ∧ (s.port p).bias ≤ Config.biasMax
  streak : ∀ p, (s.port p).streak ≤ Config.biasMax
  lease : ∀ p, (s.port p).leasePeriod ≤ 255 ∧ (s.port p).leaseCounter ≤ (s.port p).leasePeriod

/-- A pending proposal (R142): the proposer is required and has endorsed, endorsers are required, required ports are
ATTACHED, and some required port has not endorsed. -/
structure ProposalOk (s : State) (a : Proposal) : Prop where
  proposer : a.endorsers.get a.proposer = true
  endorsers : ∀ p, a.endorsers.get p = true → a.required.get p = true
  required : ∀ p, a.required.get p = true → s.attached p = true
  pending : a.endorsers ≠ a.required
  remaining : 1 ≤ a.remaining ∧ a.remaining ≤ Config.agreementTicks

def AgreementOk (s : State) : Prop := ∀ a, s.slot = some a → ProposalOk s a

/-! ### Time -/

/-- Between steps no count that a tick has brought to 0 is left untaken (R111, R118): a remaining lifetime is 1 to
65535 and belongs to an OPEN or SEALED record that has not expired, and a running lease has ticks left. -/
structure CountsOk (s : State) : Prop where
  table : TableOk s
  deflife : s.deflife ≤ 65535
  slot : ∀ a, s.slot = some a → a.value ≤ 65535
  lifetime : ∀ e ∈ s.records, ∀ n, e.2.remaining = some n →
    1 ≤ n ∧ n ≤ 65535 ∧ (e.2.state = .opened ∨ e.2.state = .sealed) ∧ e.2.expired = false
  lease : ∀ p, s.attached p = true → (s.port p).leasePeriod ≠ 0 → (s.port p).leaseCounter ≠ 0

/-! ### The serial ports and the reset lines (R140, R154) -/

/-- The phase agrees with the lines, a port held by its reset line is not ATTACHED, and while RSTn is low every port
is DETACHED and no tick interval runs. -/
structure LinesOk (s : State) : Prop where
  held : ∀ p, (s.port p).txn.phase = .held ↔ s.rstHigh = false ∨ (s.port p).prstHigh = false
  high : ∀ p, (s.port p).selHigh = true → (s.port p).txn.phase = .idle ∨ (s.port p).txn.phase = .held
  low : ∀ p, (s.port p).selHigh = false → (s.port p).txn.phase ≠ .idle
  portReset : ∀ p, (s.port p).prstHigh = false → s.attached p = false
  chipReset : s.rstHigh = false → s.interval = none ∧ ∀ p, (s.port p).mode = .detached
  running : s.rstHigh = true → s.interval ≠ none

/-! ### A port that is not ATTACHED (R129, R135, R168) -/

/-- What a port that is not ATTACHED never holds, and what a DETACHED port never holds. -/
structure DepartedOk (s : State) : Prop where
  books : BooksOk s
  notAttached : ∀ p, s.attached p = false →
    (s.port p).causes = CauseSet.empty ∧ (s.port p).leaseCounter = 0 ∧ (s.port p).deposit = .none ∧
      (s.port p).fetch = none ∧ (s.port p).wait = none ∧ (s.port p).backlog = []
  detached : ∀ p, (s.port p).mode = .detached →
    (s.port p).mask = CauseSet.empty ∧ (s.port p).bias = Config.biasReset ∧ (s.port p).leasePeriod = 0 ∧
      (s.port p).limit = Config.limitReset ∧ (s.port p).streak = 0 ∧ (s.port p).express = [] ∧
      (s.port p).bulk = [] ∧ (s.port p).intake = 0 ∧ (s.port p).notices = [] ∧
      (s.port p).resExpress = ⟨0, 0⟩ ∧ (s.port p).resBulk = ⟨0, 0⟩

/-! ### Terms of the statements about single commands -/

/-- The command byte of port `p` is the byte in progress (R154). -/
abbrev State.inCommand (s : State) (p : Port) : Prop := (s.port p).txn.phase = .command

/-- Port `p` has received the command byte `code` and the argument bytes `args`, and the next byte is in progress. -/
abbrev State.inArgument (s : State) (p : Port) (code : Byte) (args : List Byte) : Prop :=
  (s.port p).txn.phase = .argument ∧ (s.port p).txn.collected = code :: args

/-- A port whose reply begins: `out` was shifted out with the last byte, then come the reply and promised payload. The
fields of the transaction that a reply does not use stand at rest (log entry 16). -/
def PortState.replying (x : PortState) (out : Byte) (reply : List Byte) (payload : Nat) : PortState :=
  { x with txn := ⟨.reply, x.txn.summary, [], reply, 0, payload, ⟨0, .ok, 0, false, 0⟩, some out⟩ }

/-- Nothing but the transaction of port `p` changes: its reply begins. -/
def State.answered (s : State) (p : Port) (out : Byte) (reply : List Byte) : State :=
  s.setPort p ((s.port p).replying out reply 0)

/-- The two states differ in their ports at most. -/
def State.onlyPorts (s t : State) : Prop := t = { s with ports := t.ports }

/-- The two states differ in ports, records, cells and accounts at most. -/
def State.onlyStore (s t : State) : Prop :=
  t = { s with ports := t.ports, records := t.records, freeList := t.freeList, sharedCharged := t.sharedCharged }

/-- A port keeps everything but what commands of other ports can reach: its causes, queues, intake count, fetch
context, notices, backlog, reserves and space wait. -/
def PortState.keepsOwn (x y : PortState) : Prop :=
  y = { x with
    causes := y.causes, express := y.express, bulk := y.bulk, intake := y.intake, fetch := y.fetch,
    notices := y.notices, backlog := y.backlog, resExpress := y.resExpress, resBulk := y.resBulk, wait := y.wait }

/-- A notice queue after the offer of a PEER notice about `r` (R96, R98). -/
def offeredPeer (r : Port) (attached : Bool) (ns : List Notice) : List Notice :=
  if ns.any (Notice.isPeerOf r) then
    ns.map fun n =>
      match n with
      | .peer x b k => if x = r then .peer r attached (min (k + 1) 255) else .peer x b k
      | n => n
  else ns ++ [.peer r attached 1]

/-- A notice queue after the offer of an AGREEMENT notice (R96, R99). -/
def offeredAgreement (a : AgreementInfo) (ns : List Notice) : List Notice :=
  if ns.any Notice.isAgreement then
    ns.map fun n =>
      match n with
      | .agreement _ => .agreement a
      | n => n
  else ns ++ [.agreement a]

/-- The port takes an AGREEMENT notice, if it is ATTACHED (R96, R100). -/
def PortState.toldAgreement (x : PortState) (a : AgreementInfo) : PortState :=
  if x.mode = .attached then
    { x with notices := offeredAgreement a x.notices, causes := { x.causes with notice := true } }
  else x

/-- `t` is `s` after the space-wait check (R19): a wait that can be charged is cleared and sets SPACE, which only an
ATTACHED port takes, and nothing else changes. -/
structure WaitsChecked (s t : State) : Prop where
  part : s.onlyPorts t
  satisfied : ∀ p w, (s.port p).wait = some w → s.canCharge p w.cls w.cells → s.attached p = true →
    t.port p = { s.port p with wait := none, causes := { (s.port p).causes with space := true } }
  inert : ∀ p w, (s.port p).wait = some w → s.canCharge p w.cls w.cells → s.attached p = false →
    t.port p = { s.port p with wait := none }
  armed : ∀ p w, (s.port p).wait = some w → ¬ s.canCharge p w.cls w.cells → t.port p = s.port p
  absent : ∀ p, (s.port p).wait = none → t.port p = s.port p

/-- The shared settings and the tick interval (R141, R109). -/
def State.settings (s : State) : Nat × Nat × Nat × Option Nat := (s.tick, s.guard, s.deflife, s.interval)

/-- The settings after the adoption of a value; a TICK value restarts the interval (R147, R148). -/
def State.settingsWith (s : State) (st : Setting) (v : Nat) : Nat × Nat × Nat × Option Nat :=
  match st with
  | .tick => (v, s.guard, s.deflife, some v)
  | .guard => (s.tick, v, s.deflife, s.interval)
  | .deflife => (s.tick, s.guard, v, s.interval)

/-- The state with the value of a setting taken, and the tick interval that follows from it (R147, R148). -/
def State.withSetting (s : State) (st : Setting) (v : Nat) : State :=
  { s with
    tick := (s.settingsWith st v).1, guard := (s.settingsWith st v).2.1, deflife := (s.settingsWith st v).2.2.1,
    interval := (s.settingsWith st v).2.2.2 }

/-- `t` is `u` after the effect of an adopted value on its users: a GUARD runs the space-wait check, and the other
settings touch nothing (R148). -/
def SettingTaken (u t : State) (st : Setting) : Prop :=
  match st with
  | .guard => WaitsChecked u t
  | _ => t = u

/-- The proposal without port `p` in its required set and its endorsers (R150). -/
def Proposal.without (a : Proposal) (p : Port) : Proposal :=
  { a with required := a.required.set p false, endorsers := a.endorsers.set p false }

/-- What the departure of `p` makes of the proposal slot and the settings (R150). -/
def SlotLeft (s t : State) (p : Port) : Prop :=
  match s.slot with
  | none => t.slot = none ∧ t.settings = s.settings
  | some a =>
    if a.required.get p = false then t.slot = some a ∧ t.settings = s.settings
    else if a.proposer = p then t.slot = none ∧ t.settings = s.settings
    else if (a.without p).endorsers = (a.without p).required then
      t.slot = none ∧ t.settings = s.settingsWith a.setting a.value
    else t.slot = some (a.without p) ∧ t.settings = s.settings

/-- The frame-error flag after a transaction ends in the phase it is in, `clocks` clocks after its last whole byte
(the table of R163). -/
def PortState.flagAtEnd (x : PortState) (clocks : Nat) : Bool :=
  match x.txn.phase with
  | .command => if clocks = 0 then x.frameError else true
  | .argument | .data => true
  | _ => x.frameError

/-- A record after the entry of each port in a set of stages has ended or moved, as `f` gives it. -/
def Record.entriesBy (r : Record) (f : Entry → Stage) : Record :=
  { r with deliveries := r.deliveries.map fun e => { e with stage := f e } }

/-- Every entry of the record is DONE. -/
def Record.allDone (r : Record) : Prop := ∀ e ∈ r.deliveries, e.stage.isDone = true

/-- The outcome a RELEASE with disposition code `d` gives, the abort first; none where the delivery returns to its
queue (R83). -/
def Record.releaseOutcome (r : Record) (d : Byte) : Option Fate :=
  if r.state = .aborted then some .truncated
  else if d = 0x01 then some .accepted
  else if d = 0x02 then some .refused
  else if r.state = .sealed ∧ r.expired = true then some .expired
  else none

/-- The receipt of a record as R103 composes it. -/
def Record.composedReceipt (r : Record) (id : Nat) : Receipt where
  id := id
  serial := r.serial
  tag := r.tag
  cls := r.cls
  length := r.deposited
  abortCause := r.abortCause
  outcomes := r.deliveries.map fun e => ⟨e.port, e.via, match e.stage with | .done f => some f | _ => none⟩

/-! ### Causes (R168) -/

/-- The cause is in the set. -/
def CauseSet.has (cs : CauseSet) : Cause → Bool
  | .arrival => cs.arrival
  | .notice => cs.notice
  | .space => cs.space
  | .data => cs.data
  | .trunc => cs.trunc

/-- The bit of a CLEAR item byte that names the cause (R179). -/
def Cause.bit : Cause → Nat
  | .arrival => 0
  | .notice => 1
  | .space => 2
  | .data => 3
  | .trunc => 4

/-- What has happened at port `p`, between `s` and the `t` that row `c` makes of it, where a cause has become set (the
table of R168). -/
def CauseEvent (c : Instr) (s t : State) (p : Port) : Cause → Prop
  | .arrival =>
    (∃ x b, c = .openMsg x b ∨ c = .sealMsg x ∨ x ≠ p ∧ c = .forward x b) ∧
      ∃ k id, (s.port p).queue k ++ [id] <+: (t.port p).queue k
  | .notice =>
    (c = .notice p ∨ c = .receiptPosting p) ∧ (∃ id, (s.port p).backlog = id :: (t.port p).backlog) ∨
      c.offersNotice p = true ∧
        ((s.port p).notices.length < (t.port p).notices.length ∨ ∃ n ∈ (s.port p).notices, n.isReceipt = false)
  | .space => (s.port p).wait ≠ none ∧ (t.port p).wait = none
  | .data =>
    ∃ x r, (s.port p).fetch = some x ∧ x.awaiting = true ∧ s.record? x.id = some r ∧ r.state = .opened ∧
      ∀ r', t.record? x.id = some r' → r'.state = .opened → r.deposited < r'.deposited
  | .trunc =>
    ∃ x r, (s.port p).fetch = some x ∧ s.record? x.id = some r ∧ r.state = .opened ∧
      ∀ r', t.record? x.id = some r' → r'.abortCause ≠ none

/-! ### Retire, teardown start and teardown completion -/

/-- The record is SEALED or ABORTED and every entry of it is DONE (R36). -/
def Record.over (r : Record) : Bool :=
  (r.state == .sealed || r.state == .aborted) && r.deliveries.all fun e => e.stage.isDone

/-- The receipt of a retiring record is owed to `q`: it is wanted, and `q` is its source and ATTACHED (R37). -/
def State.owesReceipt (s : State) (q : Port) (e : Nat × Record) : Bool :=
  e.2.receipt && e.2.source == q && s.attached q

/-- Of the records that one event retires, in their order, those whose receipts `q` admits: while its queue holds fewer
than 28 notices (R38, R97). -/
def State.receiptsIn (s : State) (q : Port) (gone : List (Nat × Record)) : List (Nat × Record) :=
  (gone.filter (s.owesReceipt q)).take (28 - (s.port q).notices.length)

/-- Those that join the backlog of `q` (R97). -/
def State.receiptsLate (s : State) (q : Port) (gone : List (Nat × Record)) : List (Nat × Record) :=
  (gone.filter (s.owesReceipt q)).drop (28 - (s.port q).notices.length)

/-- What the records of `gone`, as their event leaves them and in the order in which they retire, make of notices,
backlogs and the table (R37, R97). `told` is what the event then offers the ports as other notices; a port whose own
state the event changes is not spoken of. -/
structure Retired (s t : State) (gone : List (Nat × Record)) (told : Port → List Notice → List Notice) : Prop where
  notices : ∀ q, (t.port q).mode = (s.port q).mode →
    (t.port q).notices =
      told q ((s.port q).notices ++ (s.receiptsIn q gone).map fun e => .receipt (e.2.composedReceipt e.1))
  cause : ∀ q, (t.port q).mode = (s.port q).mode → s.receiptsIn q gone ≠ [] → (t.port q).causes.notice = true
  backlog : ∀ q, (t.port q).mode = (s.port q).mode →
    (t.port q).backlog = (s.port q).backlog ++ (s.receiptsLate q gone).map Prod.fst
  records : ∀ e ∈ gone,
    t.record? e.1 =
      if e ∈ s.receiptsLate e.2.source gone then
        some { e.2 with state := .reporting, cells := [], account := none, remaining := none }
      else none

/-- The event offers no other notice. -/
abbrev noneTold : Port → List Notice → List Notice := fun _ ns => ns

/-- The stage of an entry of record `id` after steps 4 to 6 of the teardown start of `p`: the waiting entries of its
lost deposit end ABORTED (R29, R67), and the delivery that `p` reads ends DETACHED (R90). -/
def State.leftStage (s : State) (p : Port) (id : Nat) (e : Entry) : Stage :=
  if (s.port p).deposit = .opened id ∧ (e.stage = .claimed ∨ e.stage = .queued) then .done .aborted
  else if (s.port p).fetch.map FetchCtx.id = some id ∧ e.port = p ∧ e.stage = .fetching then .done .detached
  else e.stage

/-- Record `id` after steps 4 to 6 of the teardown start of `p`: a lost deposit is aborted SOURCE_LOST (R67), and no
record of `p` has its receipt wanted (R40). -/
def State.leftRecord (s : State) (p : Port) (id : Nat) (r : Record) : Record :=
  let x := { r.entriesBy (s.leftStage p id) with receipt := r.receipt && r.source != p }
  if (s.port p).deposit = .opened id then
    { x with state := .aborted, abortCause := some .sourceLost, remaining := none, expired := false }
  else x

/-- The record is one of the two that `p` holds in its contexts, and it retires at the teardown start of `p` (R129). -/
def State.leaves (s : State) (p : Port) (e : Nat × Record) : Bool :=
  ((s.port p).deposit == .opened e.1 || (s.port p).fetch.map FetchCtx.id == some e.1) &&
    (s.leftRecord p e.1 e.2).over

/-- The records that retire at the teardown start of `p`, in ascending order of id (R38). -/
def State.goneAtStart (s : State) (p : Port) : List (Nat × Record) :=
  (s.records.filter (s.leaves p)).map fun e => (e.1, s.leftRecord p e.1 e.2)

/-- How many deliveries to `q` the teardown start of `p` ends (R34). -/
def State.endedAtStart (s : State) (p q : Port) : Nat :=
  (s.records.map fun e =>
    e.2.deliveries.countP fun d => d.port == q && !d.stage.isDone && (s.leftStage p e.1 d).isDone).sum

/-- The AGREEMENT notice that the departure of `p` offers `q` (R150). -/
def State.toldOfLeaving (s : State) (p q : Port) (ns : List Notice) : List Notice :=
  match s.slot with
  | none => ns
  | some a =>
    if a.required.get p = false ∨ a.required.get q = false ∨ s.attached q = false then ns
    else if a.proposer = p then offeredAgreement ⟨.withdrawn, a.setting, a.value, a.proposer, none⟩ ns
    else if (a.without p).endorsers = (a.without p).required then
      offeredAgreement ⟨.adopted, a.setting, a.value, a.proposer, none⟩ ns
    else ns

/-- `t` is `s` after the teardown start of `p` (R129), as the column "Teardown start" of R135 gives the items of `p`
and R40, R90, R105 and R150 give what it reaches elsewhere. The transaction, the port reset level and the frame-error
flag of `p` are the causing event's. -/
structure TeardownStarted (s t : State) (p : Port) (cause : TeardownCause) : Prop where
  items : t.port p =
    { s.port p with
      mode := .teardown, lastCause := cause, causes := ⟨false, false, false, false, false⟩, leaseCounter := 0,
      deposit := .none, fetch := none, wait := none, backlog := [], express := (t.port p).express,
      bulk := (t.port p).bulk, intake := (t.port p).intake, resExpress := (t.port p).resExpress,
      resBulk := (t.port p).resBulk, txn := (t.port p).txn, prstHigh := (t.port p).prstHigh,
      frameError := (t.port p).frameError }
  sizes : ∀ q c, ((t.port q).reserve c).size = ((s.port q).reserve c).size
  others : ∀ q, q ≠ p → (s.port q).keepsOwn (t.port q)
  /-- Every record but those of the backlog of `p` and those that retire stays, as steps 4 to 6 leave it. -/
  records : ∀ id r, s.record? id = some r → id ∉ (s.port p).backlog → s.leaves p (id, r) = false →
    t.record? id = some (s.leftRecord p id r)
  retired : Retired s t (s.goneAtStart p) (s.toldOfLeaving p)
  reporting : ∀ id, id ∈ (s.port p).backlog → t.record? id = none
  unlisted : ∀ id, s.record? id = none → t.record? id = none
  cells : t.freeList = s.freeList ++ (s.goneAtStart p).flatMap fun e => e.2.cells
  intake : ∀ q, (t.port q).intake = (s.port q).intake - s.endedAtStart p q
  queues : ∀ q c,
    (∀ id r, (s.port p).deposit = .opened id → s.record? id = some r →
      ¬ (r.cls = c ∧ ∃ e ∈ r.deliveries, e.port = q ∧ e.stage = .queued)) →
    (t.port q).queue c = (s.port q).queue c
  unqueued : ∀ id r e, (s.port p).deposit = .opened id → s.record? id = some r →
    (r.deliveries.map Entry.port).Nodup → e ∈ r.deliveries → e.stage = .queued →
    (t.port e.port).queue r.cls = ((s.port e.port).queue r.cls).erase id
  readers : ∀ q, q ≠ p →
    (t.port q).fetch =
      (s.port q).fetch.map fun c => if (s.port p).deposit = .opened c.id then { c with awaiting := false } else c
  cut : ∀ q c, q ≠ p → (s.port q).fetch = some c → (s.port p).deposit = .opened c.id → s.attached q = true →
    (t.port q).causes.trunc = true ∧ (c.awaiting = true → (t.port q).causes.data = true)
  slot : SlotLeft s t p
  memory : t.mem = s.mem
  lines : t.rstHigh = s.rstHigh ∧ t.pending = s.pending

/-- A record after the teardown completion of `p` has ended the deliveries that wait for `p` (R91). -/
def Record.purgedOf (r : Record) (p : Port) : Record :=
  r.entriesBy fun e => if e.port = p ∧ (e.stage = .claimed ∨ e.stage = .queued) then .done .detached else e.stage

/-- The record has a delivery that waits for `p`, and it retires at the teardown completion of `p` (R132). -/
def Record.leavesAtCompletion (p : Port) (r : Record) : Bool :=
  r.deliveries.any (fun e => e.port == p && (e.stage == .claimed || e.stage == .queued)) && (r.purgedOf p).over

/-- The records that retire at the teardown completion of `p`, in ascending order of id (R38). -/
def State.goneAtCompletion (s : State) (p : Port) : List (Nat × Record) :=
  (s.records.filter fun e => e.2.leavesAtCompletion p).map fun e => (e.1, e.2.purgedOf p)

end Sys2Proof.Machine
end

