-- ==== Sys2Proof/Certificates/Slice0/Obligations.lean ====
section
/-! DEFINITION. The statements for the provers. Bytes of commands and status codes stand as R179 and R180 give them.
The form of a row's operands (log entry 1) and the working fields of a transaction, which stand at rest when a reply
begins (log entry 16), are the model's in every statement about a single command. The bits of a reply byte that the spec
gives no meaning read 0, and the frame-error flag of a reply reads 0x00 or 0x01, which is the model's choice (log entries
21 and 22). -/

open Sys2Proof Sys2Proof.Machine

/-! ### The step, reset, and the frames that hold of every command -/

/-- A step takes the command at the front of the queue and runs it with the rest of the queue. On an empty queue the
part idles, which is the model's choice (log entry 5). -/
def Obligations.StepTakesFront : Prop :=
  (∀ (s : State) (c : Instr) (rest : List Instr), s.pending = c :: rest → step s = exec c { s with pending := rest }) ∧
    ∀ s : State, s.pending = [] → step s = .next s

/-- The state after reset, with every line high (log entry 6), satisfies every invariant stated below. -/
def Obligations.ResetSatisfiesInvariants : Prop :=
  MemoryOk State.reset ∧ LengthsOk State.reset ∧ NoticesOk State.reset ∧ DeliveriesOk State.reset ∧
    IntakeOk State.reset ∧ SettingsOk State.reset ∧ AgreementOk State.reset ∧ CountsOk State.reset ∧
    LinesOk State.reset ∧ DepartedOk State.reset ∧ WaitsOk State.reset

/-- A payload byte changes only by a PUT data byte, at the place of the deposited length of the record its port is
writing, and there to the byte taken; chip reset empties the store (log entry 7). -/
def Obligations.PayloadWrittenByPutOnly : Prop :=
  ∀ (c : Instr) (s t : State), exec c s = .next t →
    (c = .chipReset → t.mem = []) ∧
      (c ≠ .chipReset → ∀ a : Nat,
        Memory.read a t.mem = Memory.read a s.mem ∨
          ∃ (p : Port) (b : Byte) (id : Nat) (r : Record),
            c = .putDataByte p b ∧ (s.port p).deposit = .opened id ∧ s.record? id = some r ∧
              payloadAddr r.cells r.deposited = some a ∧ Memory.read a t.mem = some b)

/-! ### Invariants that every step keeps -/

/-- Every step keeps the canonical form of the payload store (log entry 7). -/
def Obligations.KeepsMemoryForm : Prop := Kept MemoryOk

/-- Every step keeps the laws of the pool together with the contexts and the backlogs, and in every state that keeps the
laws of the pool the charged cells of the nine accounts and the free cells are 1024 together, no charged count exceeds
its size, the free list is as long as the nine free counts together, the reserve sizes keep their bounds, and the size
of SHARED is 1024 less their sum, between 128 and 1024. A reserve size changes at a RESERVE of its port, at the teardown
completion of its port and at chip reset only. -/
def Obligations.KeepsPoolBalance : Prop :=
  (Kept fun s => PoolOk s ∧ BooksOk s) ∧
    (∀ s : State, PoolOk s →
      s.sharedCharged + ((allPorts.map fun p => (s.port p).resExpress.charged + (s.port p).resBulk.charged).sum) +
          s.freeList.length = 1024 ∧
        (∀ p, (s.port p).resExpress.charged ≤ (s.port p).resExpress.size ∧
          (s.port p).resBulk.charged ≤ (s.port p).resBulk.size) ∧
        s.sharedCharged ≤ s.sharedSize ∧ s.sharedSize + s.reserveSum = 1024 ∧
        s.freeList.length =
          (s.sharedSize - s.sharedCharged) +
            (allPorts.map fun p =>
              ((s.port p).resExpress.size - (s.port p).resExpress.charged) +
                ((s.port p).resBulk.size - (s.port p).resBulk.charged)).sum ∧
        s.reserveSum ≤ 896 ∧ (∀ p, (s.port p).resExpress.size + (s.port p).resBulk.size ≤ 256) ∧
        s.sharedSize = 1024 - s.reserveSum ∧ 128 ≤ s.sharedSize ∧ s.sharedSize ≤ 1024) ∧
    ∀ (c : Instr) (s t : State), exec c s = .next t → ∀ p k,
      ((t.port p).reserve k).size = ((s.port p).reserve k).size ∨
        (∃ b, c = .reserve p b) ∨ c = .teardownCompletion p ∨ c = .chipReset

/-- Every step keeps the armed space waits such that none can be charged, which says that the space-wait check follows
every event that frees cells or changes an account or the guard. A wait is armed by an OPEN of its port only, and a
wait that ends sets SPACE, or its port has left. -/
def Obligations.KeepsSpaceWaits : Prop :=
  Kept WaitsOk ∧
    ∀ (c : Instr) (s t : State), exec c s = .next t → ∀ p,
      (t.port p).wait = (s.port p).wait ∨
        (∃ b w, c = .openMsg p b ∧ (t.port p).wait = some w ∧ (t.port p).causes = (s.port p).causes) ∨
        (t.port p).wait = none ∧ ((t.port p).causes.space = true ∨ t.attached p = false)

/-- Every step keeps the cells of each record in number what its declared or final length asks, and the deposited
length within the declared length. -/
def Obligations.KeepsRecordLengths : Prop := Kept LengthsOk

/-- Every step keeps each notice queue within its bounds, which hold it to 32 notices. -/
def Obligations.KeepsNoticeQueues : Prop :=
  Kept NoticesOk ∧ ∀ s : State, NoticesOk s → ∀ p, (s.port p).notices.length ≤ 32

/-- Every step keeps deposit contexts naming exactly the OPEN records of their ports, and backlogs exactly the
REPORTING records, which exist only while the queue holds 28 notices or more. -/
def Obligations.KeepsContexts : Prop := Kept BooksOk

/-- Every step keeps queues, fetch contexts and intake counts in agreement with the stages of the deliveries. -/
def Obligations.KeepsDeliveries : Prop := Kept DeliveriesOk

/-- Every step keeps every setting in its range, and every intake limit and every intake count within 128. -/
def Obligations.KeepsSettingRanges : Prop := Kept SettingsOk ∧ Kept IntakeOk

/-- Every step keeps a pending proposal in order: its proposer has endorsed, endorsers are required, required ports are
ATTACHED, not all have endorsed, and 1 to 32 ticks remain. -/
def Obligations.KeepsProposal : Prop := Kept AgreementOk

/-- Every step takes what a tick has brought to 0: no remaining lifetime and no running lease is left at 0. -/
def Obligations.KeepsCounts : Prop := Kept CountsOk

/-- Every step keeps the transaction phase in agreement with the select and reset lines. -/
def Obligations.KeepsLines : Prop := Kept LinesOk

/-- Every step keeps a port that is not ATTACHED without causes, contexts, lease count, wait and backlog, and a
DETACHED port at its reset settings and without queues, intake, notices and reserves. -/
def Obligations.KeepsDepartedPorts : Prop := Kept DepartedOk

/-! ### Rules over every command -/

/-- The state of a port changes only as the table of R123 says: ATTACH, the causes of a teardown, teardown completion,
and chip reset; the last teardown cause changes with a teardown start, to the cause of that teardown, and at chip
reset. -/
def Obligations.PortStateTransitions : Prop :=
  ∀ (c : Instr) (s t : State), exec c s = .next t → ∀ p,
    let q := s.port p
    let r := t.port p
    c ≠ .chipReset ∧ r.mode = q.mode ∧ r.lastCause = q.lastCause ∨
      q.mode = .detached ∧ r.mode = .attached ∧ c = .attach p ∧ r.lastCause = q.lastCause ∨
      q.mode = .attached ∧ r.mode = .teardown ∧
        (c = .detach p ∧ r.lastCause = .detach ∨ (∃ k, c = .portResetFall p k) ∧ r.lastCause = .portReset ∨
          (c = .leaseExpiry p ∨ ∃ o, c = .tick o) ∧ r.lastCause = .lease) ∨
      q.mode = .teardown ∧ r.mode = .detached ∧ c = .teardownCompletion p ∧ r.lastCause = q.lastCause ∨
      c = .chipReset ∧ r.mode = .detached ∧ r.lastCause = .chipReset

/-- A serial counter counts the OPENs of its port that create a record: the record carries the counter's value and the
counter advances by one, wrapping; nothing else but chip reset changes it. -/
def Obligations.SerialCountsOpens : Prop :=
  ∀ (c : Instr) (s t : State), exec c s = .next t → ∀ p,
    (c = .chipReset ∧ (t.port p).serial = 0) ∨
      (∃ b id r, c = .openMsg p b ∧ s.record? id = none ∧ t.record? id = some r ∧ r.source = p ∧
        r.serial = (s.port p).serial ∧ (t.port p).serial = (s.port p).serial + 1) ∨
      c ≠ .chipReset ∧ (t.port p).serial = (s.port p).serial ∧
        ∀ id r, s.record? id = none → t.record? id = some r → r.source ≠ p

/-- A shared setting changes only at chip reset or by the adoption of a proposal that every port then required has
endorsed: the pending one, with members that depart within the event taken out, or the one a PROPOSE makes alone. -/
def Obligations.SettingsChangeByAgreement : Prop :=
  ∀ (c : Instr) (s t : State), exec c s = .next t →
    (t.tick = s.tick ∧ t.guard = s.guard ∧ t.deflife = s.deflife) ∨
      (c = .chipReset ∧ t.tick = 1 ∧ t.guard = 16 ∧ t.deflife = 0) ∨
      ∃ (st : Setting) (v : Nat),
        t.slot = none ∧ (t.tick, t.guard, t.deflife) =
            ((s.settingsWith st v).1, (s.settingsWith st v).2.1, (s.settingsWith st v).2.2.1) ∧
          ((∃ a, s.slot = some a ∧ a.setting = st ∧ a.value = v ∧
              ∀ q, a.required.get q = true →
                a.endorsers.get q = true ∨ (∃ b, c = .endorse q b) ∨ (t.port q).mode = .teardown) ∨
            ∃ p b, s.slot = none ∧ c = .propose p b ∧ ∀ q, s.attached q = true → q = p)

/-- The mask, the bias, the intake limit and the lease period of a port change at a SETPORT, at the teardown completion
of that port and at chip reset only; its frame-error flag is set only at the end of a transaction, and cleared only by
CLEAR, teardown completion and chip reset. A set cause stays set until a CLEAR names it, the port's teardown starts, or
chip reset, and a cause becomes set at a port that is and stays ATTACHED only, by the event the table of R168 gives
it. -/
def Obligations.PortItemsChange : Prop :=
  ∀ (c : Instr) (s t : State), exec c s = .next t → ∀ p,
    let q := s.port p
    let r := t.port p
    (r.mask = q.mask ∧ r.bias = q.bias ∧ r.limit = q.limit ∧ r.leasePeriod = q.leasePeriod ∨
      (∃ b, c = .setport p b) ∨
      (c = .teardownCompletion p ∨ c = .chipReset) ∧ r.mask = ⟨false, false, false, false, false⟩ ∧ r.bias = 4 ∧
        r.limit = 64 ∧ r.leasePeriod = 0) ∧
      (r.frameError = true → q.frameError = true ∨
        (∃ k, c = .selectRise p k ∨ c = .portResetFall p k) ∧
          (q.txn.phase = .command ∨ q.txn.phase = .argument ∨ q.txn.phase = .data)) ∧
      (q.frameError = true → r.frameError = true ∨
        (∃ b, c = .clear p b ∧ b.getLsbD 7 = true) ∨ c = .teardownCompletion p ∨ c = .chipReset) ∧
      (DepartedOk s → ∀ k : Cause,
        (q.causes.has k = true → r.causes.has k = true ∨
          (∃ b, c = .clear p b ∧ b.getLsbD k.bit = true) ∨ q.mode = .attached ∧ r.mode = .teardown ∨ c = .chipReset) ∧
          (q.causes.has k = false → r.causes.has k = true →
            q.mode = .attached ∧ r.mode = .attached ∧ CauseEvent c s t p k))

/-- A row of one port leaves the transaction, the lines, the port state, the settings, the lease, the deposit context,
the streak, the serial counter and the frame-error flag of every other port alone; and no row touches the queue of
waiting commands, which is the model's (log entry 5). -/
def Obligations.PortsIndependent : Prop :=
  ∀ (c : Instr) (s t : State), exec c s = .next t →
    t.pending = s.pending ∧ ∀ p q : Port, c.port? = some p → q ≠ p → (s.port q).keepsOwn (t.port q)

/-- In a state whose lines and departed ports are in order, IRQ is asserted exactly while the port is ATTACHED and a
cause is both set and unmasked. Its level is computed and not held (log entry 14). -/
def Obligations.InterruptLevel : Prop :=
  ∀ (s : State) (p : Port), LinesOk s → DepartedOk s →
    (s.irqAsserted p = true ↔
      s.attached p = true ∧
        ((s.port p).causes.arrival = true ∧ (s.port p).mask.arrival = true ∨
          (s.port p).causes.notice = true ∧ (s.port p).mask.notice = true ∨
          (s.port p).causes.space = true ∧ (s.port p).mask.space = true ∨
          (s.port p).causes.data = true ∧ (s.port p).mask.data = true ∨
          (s.port p).causes.trunc = true ∧ (s.port p).mask.trunc = true))

/-! ### Commands on the port itself -/

/-- On a port that is not ATTACHED every command but STATUS, ATTACH and PUT is answered STATE and changes nothing else;
its other reply fields read 0, or as the command's own rules give them for a refusal (log entry 10). PUT is answered
STATE after its data bytes (PutTaken, PutDataByteTaken). The unused bits of the causes byte and the mask byte, and the
codes of the frame-error flag, are the model's (log entries 21 and 22). -/
def Obligations.GatedCommands : Prop :=
  ∀ (s : State) (p : Port), s.attached p = false →
    let q := s.port p
    (s.inCommand p →
      exec (.detach p) s = .next (s.answered p q.txn.summary [0x10, 0, 0, 0]) ∧
        exec (.sealMsg p) s = .next (s.answered p q.txn.summary [0x10, 0, 0, 0]) ∧
        exec (.cancel p) s = .next (s.answered p q.txn.summary [0x10, 0]) ∧
        exec (.fetch p) s = .next (s.answered p q.txn.summary [0x10, 0, 0, 0, 0, 0, 0, 0, 0, 0, 0, 0, 0, 0xFF]) ∧
        exec (.notice p) s = .next (s.answered p q.txn.summary [0x10, 0, 0])) ∧
      (∀ a b c d, s.inArgument p 0x13 [a, b, c] →
        exec (.setport p d) s =
          .next (s.answered p 0 [0x10, byteOf q.limit, byteOf q.bias, byteOf q.leasePeriod, causeByte q.mask,
            byteOf q.leaseCounter])) ∧
      (∀ b, s.inArgument p 0x14 [] →
        exec (.clear p b) s = .next (s.answered p 0 [0x10, causeByte q.causes, boolByte q.frameError])) ∧
      (∀ a b c, s.inArgument p 0x20 [a, b] → exec (.reserve p c) s = .next (s.answered p 0 [0x10, 0, 0, 0, 0])) ∧
      (∀ args b, args.length = 8 → s.inArgument p 0x21 args →
        exec (.openMsg p b) s = .next (s.answered p 0 [0x10, 0, 0, 0, 0, 0, 0, 0, 0, 0])) ∧
      (∀ b, s.inArgument p 0x31 [] → exec (.get p b) s = .next (s.answered p 0 [0x10, 0, 0])) ∧
      (∀ b, s.inArgument p 0x32 [] → exec (.release p b) s = .next (s.answered p 0 [0x10, 0, 0])) ∧
      (∀ b, s.inArgument p 0x33 [] → exec (.forward p b) s = .next (s.answered p 0 [0x10, 0, 0, 0, 0, 0])) ∧
      (∀ a b c, s.inArgument p 0x50 [a, b] → exec (.propose p c) s = .next (s.answered p 0 [0x10, 0, 0])) ∧
      (∀ a b c, s.inArgument p 0x51 [a, b] → exec (.endorse p c) s = .next (s.answered p 0 [0x10, 0, 0])) ∧
      (∀ b, s.inArgument p 0x52 [] → exec (.decline p b) s = .next (s.answered p 0 [0x10])) ∧
      (∀ b, s.inArgument p 0x60 [0x01] →
        exec (.inspectMessage p b) s = .next (s.answered p 0 (0x10 :: List.replicate 18 0))) ∧
      (∀ b, s.inArgument p 0x60 [0x02] →
        exec (.inspectPool p b) s = .next (s.answered p 0 (0x10 :: List.replicate 38 0))) ∧
      (∀ b, s.inArgument p 0x60 [0x03] →
        exec (.inspectSettings p b) s = .next (s.answered p 0 (0x10 :: List.replicate 12 0))) ∧
      ∀ k b, k ≠ 0x01 → k ≠ 0x02 → k ≠ 0x03 → s.inArgument p 0x60 [k] →
        exec (.inspectInvalidKind p b) s = .next (s.answered p 0 [0x10])

/-- STATUS is taken in every port state, reports the port in the 27 bytes of its layout, and changes nothing else. The
length of an OPEN context is its record's (log entry 19); the unused bits of the causes byte and the mask byte, and the
codes of the frame-error flag, are the model's (log entries 21 and 22). -/
def Obligations.StatusReports : Prop :=
  ∀ (s : State) (p : Port), s.inCommand p →
    let q := s.port p
    exec (.status p) s =
      .next (s.answered p q.txn.summary
        ([0x00, modeByte q.mode, q.lastCause.code] ++
          (match q.deposit with
            | .none => [0x00, 0x00, 0x00, 0x00]
            | .opened id => [0x01, byteOf id] ++ twoBytes (((s.record? id).map Record.deposited).getD 0)
            | .lapsed id length => [0x02, byteOf id] ++ twoBytes length) ++
          (match q.fetch with
            | none => [0x00, 0x00, 0x00, 0x00, 0x00]
            | some c => [0x01, byteOf c.id] ++ twoBytes c.offset ++ [if c.awaiting then 0x01 else 0x00]) ++
          [byteOf q.intake, byteOf q.limit, byteOf q.express.length, byteOf q.bulk.length, byteOf q.streak,
            byteOf q.bias, byteOf q.notices.length, byteOf q.backlog.length] ++
          (match q.wait with
            | none => [0x00, 0x00]
            | some w => [byteOf w.cells, if w.cls = .express then 0x00 else 0x01]) ++
          [causeByte q.causes, causeByte q.mask, if q.frameError then 0x01 else 0x00, byteOf q.leasePeriod,
            byteOf q.leaseCounter]))

/-- ATTACH makes a DETACHED port ATTACHED with its lease counter loaded, offers every other ATTACHED port a PEER notice,
replies the last teardown cause and the other ATTACHED ports, and changes nothing else; on any other port it is refused
STATE. The unused bits of the port mask read 0 (log entry 21). -/
def Obligations.AttachEnters : Prop :=
  ∀ (s : State) (p : Port), s.inCommand p →
    let q := s.port p
    (q.mode = .detached →
      ∃ t, exec (.attach p) s = .next t ∧ s.onlyPorts t ∧
        t.port p =
          { q with mode := .attached, leaseCounter := q.leasePeriod }.replying q.txn.summary
            [0x00, q.lastCause.code, portMask (PerPort.ofFn fun r => s.attached r && r != p)] 0 ∧
        ∀ r, r ≠ p →
          t.port r =
            if s.attached r then
              { s.port r with
                notices := offeredPeer p true (s.port r).notices
                causes := { (s.port r).causes with notice := true } }
            else s.port r) ∧
      (q.mode ≠ .detached → exec (.attach p) s = .next (s.answered p q.txn.summary [0x10, q.lastCause.code, 0x00]))

/-- DETACH on an ATTACHED port starts its teardown with cause DETACH and then replies TEARDOWN, the deliveries to the
port that wait, and the notices in its queue. -/
def Obligations.DetachStartsTeardown : Prop :=
  ∀ (s : State) (p : Port), BooksOk s → s.inCommand p → s.attached p = true →
    ∃ t, exec (.detach p) s = .next t ∧ TeardownStarted s t p .detach ∧
      (t.port p).prstHigh = (s.port p).prstHigh ∧ (t.port p).frameError = (s.port p).frameError ∧
      (t.port p).txn =
        ((s.port p).replying (s.port p).txn.summary
          [0x00, 0x02,
            byteOf ((t.records.map fun e => e.2.deliveries.countP fun d =>
              d.port == p && (d.stage == .claimed || d.stage == .queued)).sum),
            byteOf (t.port p).notices.length] 0).txn

/-- SETPORT on an ATTACHED port sets its four settings together and loads the lease counter, if the limit is 1 to 128,
the bias 1 to 15 and the mask names causes only; otherwise it is refused RANGE and changes no setting. Any other port
answers STATE. The unused bits of the mask byte read 0 (log entry 21). -/
def Obligations.SetportSets : Prop :=
  ∀ (s : State) (p : Port) (limit bias lease mask : Byte), s.inArgument p 0x13 [limit, bias, lease] →
    let q := s.port p
    let ok := 1 ≤ limit.toNat ∧ limit.toNat ≤ 128 ∧ 1 ≤ bias.toNat ∧ bias.toNat ≤ 15 ∧ mask.toNat < 32
    let held : List Byte :=
      [byteOf q.limit, byteOf q.bias, byteOf q.leasePeriod, causeByte q.mask, byteOf q.leaseCounter]
    (s.attached p = true → ok →
      exec (.setport p mask) s =
        .next (s.setPort p
          ({ q with
            limit := limit.toNat, bias := bias.toNat, leasePeriod := lease.toNat, leaseCounter := lease.toNat,
            mask := ⟨mask.getLsbD 0, mask.getLsbD 1, mask.getLsbD 2, mask.getLsbD 3, mask.getLsbD 4⟩ }.replying 0
              [0x00, limit, bias, lease, mask, lease] 0))) ∧
      (s.attached p = true → ¬ ok → exec (.setport p mask) s = .next (s.answered p 0 (0x12 :: held))) ∧
      (s.attached p = false → exec (.setport p mask) s = .next (s.answered p 0 (0x10 :: held)))

/-- CLEAR on an ATTACHED port clears the named causes and the frame-error flag and no other; an argument that names
anything else is refused RANGE, and a port that is not ATTACHED is answered STATE. The unused bits of the causes byte
read 0 (log entry 21), and the codes of the frame-error flag are the model's (log entry 22). -/
def Obligations.ClearClears : Prop :=
  ∀ (s : State) (p : Port) (b : Byte), s.inArgument p 0x14 [] →
    let q := s.port p
    let causes : CauseSet :=
      ⟨q.causes.arrival && !b.getLsbD 0, q.causes.notice && !b.getLsbD 1, q.causes.space && !b.getLsbD 2,
        q.causes.data && !b.getLsbD 3, q.causes.trunc && !b.getLsbD 4⟩
    let flag := q.frameError && !b.getLsbD 7
    let named := b.getLsbD 5 = false ∧ b.getLsbD 6 = false
    (s.attached p = true → named →
      exec (.clear p b) s =
        .next (s.setPort p
          ({ q with causes := causes, frameError := flag }.replying 0 [0x00, causeByte causes, boolByte flag] 0))) ∧
      (s.attached p = true → ¬ named →
        exec (.clear p b) s = .next (s.answered p 0 [0x12, causeByte q.causes, boolByte q.frameError])) ∧
      (s.attached p = false →
        exec (.clear p b) s = .next (s.answered p 0 [0x10, causeByte q.causes, boolByte q.frameError]))

/-- RESERVE on an ATTACHED port: a request above the current size is granted the largest size that the bounds of the
port, of the sum and of the free count of SHARED allow; a request at or below it is granted, down to the charged count.
The space-wait check runs if the size changed. A class code that is neither class, or a request above 256 cells, is
refused RANGE, which changes nothing, with the current size as granted size, or 0 for no class. Any other port answers
STATE. The reply fields of a refusal that no rule gives read 0 (log entry 10). -/
def Obligations.ReserveGrants : Prop :=
  ∀ (s : State) (p : Port) (cb hi lo : Byte), s.inArgument p 0x20 [cb, hi] →
    let r := hi.toNat * 256 + lo.toNat
    (s.attached p = false → exec (.reserve p lo) s = .next (s.answered p 0 [0x10, 0, 0, 0, 0])) ∧
      (s.attached p = true → cb ≠ 0x00 → cb ≠ 0x01 →
        exec (.reserve p lo) s = .next (s.answered p 0 [0x12, 0, 0, 0, 0])) ∧
      ∀ c : Cls, s.attached p = true → c = .express ∧ cb = 0x00 ∨ c = .bulk ∧ cb = 0x01 →
        let a := (s.port p).reserve c
        (256 < r → exec (.reserve p lo) s = .next (s.answered p 0 ([0x12] ++ twoBytes a.size ++ [0, 0]))) ∧
          (r ≤ 256 → PoolOk s →
            ∃ (g : Nat) (u t : State),
              exec (.reserve p lo) s = .next t ∧
                (a.size < r →
                  IsGreatest { g | g ≤ r ∧ g + ((s.port p).reserve c.other).size ≤ 256 ∧
                    s.reserveSum - a.size + g ≤ 896 ∧ g ≤ a.size + (s.sharedSize - s.sharedCharged) } g) ∧
                (r ≤ a.size → g = max r a.charged) ∧
                u = s.setPort p (((s.port p).setReserve c ⟨g, a.charged⟩).replying 0
                  ([0x00] ++ twoBytes g ++ twoBytes (s.sharedSize + a.size - g - s.sharedCharged)) 0) ∧
                (g = a.size → t = u) ∧ (g ≠ a.size → WaitsChecked u t))

/-! ### Depositing a message -/

/-- The checks of OPEN on an ATTACHED port in their order, each refusal with its reply; a refusal changes nothing else,
but NOSPACE with the wait flag arms the space wait. -/
def Obligations.OpenRefused : Prop :=
  ∀ (s : State) (p : Port) (args : List Byte) (b : Byte), s.attached p = true → args.length = 8 →
    s.inArgument p 0x21 args →
    let a := openArgsOf (args ++ [b])
    let reasons : PerPort Reason := PerPort.ofFn fun q =>
      if a.dests.get q = false then .unnamed
      else if q = p then .self
      else if s.attached q = false then .notAttached
      else if (s.port q).limit ≤ (s.port q).intake then .limit
      else .admitted
    let bytes : List Byte := [(reasons.get .p0).code, (reasons.get .p1).code, (reasons.get .p2).code,
      (reasons.get .p3).code]
    let busy := ∃ id, (s.port p).deposit = .opened id
    let range := (∀ q, a.dests.get q = false) ∨ a.cls = none ∨ 4096 < a.declared
    let quota := 96 ≤ (s.records.filter fun e => e.2.source == p).length
    let table := ∀ id, id < 256 → s.record? id ≠ none
    let unadmitted := ∀ q, reasons.get q ≠ .admitted
    let full := ∀ q, a.dests.get q = true → reasons.get q = .limit
    let n := (a.declared + 31) / 32
    (busy → exec (.openMsg p b) s = .next (s.answered p 0 [0x11, 0, 0, 0, 0, 0, 0, 0, 0, 0])) ∧
      (¬ busy → range → exec (.openMsg p b) s = .next (s.answered p 0 [0x12, 0, 0, 0, 0, 0, 0, 0, 0, 0])) ∧
      (¬ busy → ¬ range → quota → exec (.openMsg p b) s = .next (s.answered p 0 [0x13, 0, 0, 0, 0, 0, 0, 0, 0, 0])) ∧
      (¬ busy → ¬ range → ¬ quota → table →
        exec (.openMsg p b) s = .next (s.answered p 0 [0x14, 0, 0, 0, 0, 0, 0, 0, 0, 0])) ∧
      (¬ busy → ¬ range → ¬ quota → ¬ table → unadmitted →
        (full → exec (.openMsg p b) s = .next (s.answered p 0 ([0x16, 0, 0, 0, 0] ++ bytes ++ [0]))) ∧
          (¬ full → exec (.openMsg p b) s = .next (s.answered p 0 ([0x15, 0, 0, 0, 0] ++ bytes ++ [0])))) ∧
      (¬ busy → ¬ range → ¬ quota → ¬ table → ¬ unadmitted → ∀ c, a.cls = some c → 0 < n → ¬ s.canCharge p c n →
        exec (.openMsg p b) s =
          .next (s.setPort p
            ({ s.port p with wait := if a.wait then some ⟨n, c⟩ else (s.port p).wait }.replying 0
              ([0x17, 0, 0, 0, 0] ++ bytes ++ [0]) 0)))

/-- An OPEN that passes its checks creates the record with the lowest FREE id, claims intake at each admitted port,
charges the cells, loads the lifetime, sets the deposit context, and publishes an early message at once. The unused bits of the
admitted mask read 0 (log entry 21). -/
def Obligations.OpenCompletes : Prop :=
  ∀ (s : State) (p : Port) (args : List Byte) (b : Byte) (c : Cls) (id : Nat) (account : Option Charge),
    s.attached p = true → args.length = 8 → s.inArgument p 0x21 args →
    let a := openArgsOf (args ++ [b])
    let admitted : Port → Bool := fun q =>
      a.dests.get q && q != p && s.attached q && decide ((s.port q).intake < (s.port q).limit)
    let n := (a.declared + 31) / 32
    let reasons : List Byte := [Port.p0, Port.p1, Port.p2, Port.p3].map fun q =>
      if a.dests.get q = false then 0x01
      else if q = p then 0x03
      else if s.attached q = false then 0x04
      else if (s.port q).limit ≤ (s.port q).intake then 0x05 else 0x02
    let charged : Byte := match account with
      | none => 0x00
      | some .reserve => 0x01
      | some .shared => 0x02
    (∀ d, (s.port p).deposit ≠ .opened d) → a.cls = some c → a.declared ≤ 4096 →
    (s.records.filter fun e => e.2.source == p).length < 96 → id < 256 → s.record? id = none →
    (∀ j, j < id → s.record? j ≠ none) → (∃ q, admitted q = true) →
    (n = 0 ∧ account = none ∨
      0 < n ∧ n ≤ ((s.port p).reserve c).size - ((s.port p).reserve c).charged ∧ account = some .reserve ∨
      0 < n ∧ ¬ n ≤ ((s.port p).reserve c).size - ((s.port p).reserve c).charged ∧ s.canCharge p c n ∧
        account = some .shared) →
      ∃ t, exec (.openMsg p b) s = .next t ∧ s.onlyStore t ∧
        t.record? id = some
          { state := .opened, source := p, serial := (s.port p).serial, cls := c, early := a.early,
            receipt := a.receipt, tag := a.tag, declared := a.declared, deposited := 0,
            cells := s.freeList.take n, account := account,
            remaining :=
              if a.lifetime = 0 then (if s.deflife = 0 then none else some s.deflife)
              else if a.lifetime = 65535 then none else some a.lifetime,
            expired := false, abortCause := none,
            deliveries := (allPorts.filter admitted).map fun q =>
              ⟨q, none, if a.early then .queued else .claimed⟩ } ∧
        (∀ j, j ≠ id → t.record? j = s.record? j) ∧ t.freeList = s.freeList.drop n ∧
        t.sharedCharged = (if account = some .shared then s.sharedCharged + n else s.sharedCharged) ∧
        t.port p =
          ({ s.port p with serial := (s.port p).serial + 1, deposit := .opened id }.setReserve c
            ⟨((s.port p).reserve c).size, if account = some Charge.reserve then ((s.port p).reserve c).charged + n
              else ((s.port p).reserve c).charged⟩).replying 0
            ([0x00, byteOf id] ++ twoBytes (s.port p).serial.toNat ++ [portMask (PerPort.ofFn admitted)] ++
              reasons ++ [charged]) 0 ∧
        ∀ q, q ≠ p →
          (admitted q = false → t.port q = s.port q) ∧
            (admitted q = true → a.early = false → t.port q = { s.port q with intake := (s.port q).intake + 1 }) ∧
            (admitted q = true → a.early = true →
              t.port q =
                { (s.port q).setQueue c ((s.port q).queue c ++ [id]) with
                  intake := (s.port q).intake + 1, causes := { (s.port q).causes with arrival := true } })

/-- PUT is taken at its count byte with the status the deposit context gives; a lapse is cleared, and the data bytes
follow. -/
def Obligations.PutTaken : Prop :=
  ∀ (s : State) (p : Port) (n : Byte), s.inArgument p 0x22 [] →
    let taken := fun (st : Status) (d : Deposit) =>
      s.setPort p { s.port p with
        deposit := d
        txn := ⟨.data, (s.port p).txn.summary, [], [], 0, 0, ⟨n.toNat + 1, st, 0, false, 0⟩, some 0⟩ }
    (s.attached p = false → exec (.put p n) s = .next (taken .state (s.port p).deposit)) ∧
      (s.attached p = true →
        ((s.port p).deposit = .none → exec (.put p n) s = .next (taken .noopen .none)) ∧
          (∀ id k, (s.port p).deposit = .lapsed id k → exec (.put p n) s = .next (taken .expired .none)) ∧
          ∀ id, (s.port p).deposit = .opened id → exec (.put p n) s = .next (taken .ok (.opened id)))

/-- A PUT data byte is discarded after a refusal, ends a lapse, overruns a full record, or is written at the deposited
length, where it wakes the readers that await data; the reply follows the last byte. -/
def Obligations.PutDataByteTaken : Prop :=
  ∀ (s : State) (p : Port) (b : Byte), (s.port p).txn.phase = .data →
    let u := (s.port p).txn.put
    let after := fun (x : PortState) (v : PutCtx) =>
      if u.left ≤ 1 then
        x.replying 0
          ([(if v.status = .ok ∧ v.overrun = true then Status.overlen else v.status).code] ++ twoBytes v.accepted ++
            twoBytes v.length) 0
      else { x with txn := { x.txn with put := { v with left := u.left - 1 }, sdo := some 0 } }
    (u.status ≠ .ok → exec (.putDataByte p b) s = .next (s.setPort p (after (s.port p) u))) ∧
      (u.status = .ok →
        (∀ id k, (s.port p).deposit = .lapsed id k →
          exec (.putDataByte p b) s =
            .next (s.setPort p
              (after { s.port p with deposit := .none } { u with status := .expired, length := k }))) ∧
          ∀ id r, (s.port p).deposit = .opened id → s.record? id = some r →
            (r.declared ≤ r.deposited →
              exec (.putDataByte p b) s =
                .next (s.setPort p (after (s.port p) { u with overrun := true, length := r.deposited }))) ∧
              (r.deposited < r.declared → ∀ a, payloadAddr r.cells r.deposited = some a →
                let x := fun q =>
                  if q = p then after (s.port p) { u with accepted := u.accepted + 1, length := r.deposited + 1 }
                  else s.port q
                ∃ t, exec (.putDataByte p b) s = .next t ∧
                  t = { s with ports := t.ports, records := t.records, mem := t.mem } ∧
                  Memory.read a t.mem = some b ∧ (∀ k, k ≠ a → Memory.read k t.mem = Memory.read k s.mem) ∧
                  t.record? id = some { r with deposited := r.deposited + 1 } ∧
                  (∀ j, j ≠ id → t.record? j = s.record? j) ∧
                  ∀ q,
                    ((∀ o, (s.port q).fetch ≠ some ⟨id, o, true⟩) → t.port q = x q) ∧
                      ∀ o, (s.port q).fetch = some ⟨id, o, true⟩ → s.attached q = true →
                        t.port q =
                          { x q with
                            fetch := some ⟨id, o, false⟩
                            causes := { (s.port q).causes with data := true } }))

/-- SEAL and CANCEL on an ATTACHED port without an OPEN deposit: NOOPEN with context NONE, and EXPIRED with context
LAPSED, which becomes NONE. -/
def Obligations.NothingToEnd : Prop :=
  ∀ (s : State) (p : Port), s.inCommand p → s.attached p = true →
    let out := (s.port p).txn.summary
    ((s.port p).deposit = .none →
      exec (.sealMsg p) s = .next (s.answered p out [0x18, 0, 0, 0]) ∧
        exec (.cancel p) s = .next (s.answered p out [0x18, 0])) ∧
      ∀ id k, (s.port p).deposit = .lapsed id k →
        exec (.sealMsg p) s =
            .next (s.setPort p ({ s.port p with deposit := .none }.replying out [0x1B, 0, 0, 0] 0)) ∧
          exec (.cancel p) s = .next (s.setPort p ({ s.port p with deposit := .none }.replying out [0x1B, 0] 0))

/-- SEAL of an OPEN record: it becomes SEALED and is trimmed to its deposited length, its CLAIMED entries are published,
its waiting readers receive DATA, the context becomes NONE, and it retires if every entry is then DONE, its receipt
admitted below 28 notices and late otherwise. No other queue and no other fetch context changes. -/
def Obligations.SealSeals : Prop :=
  ∀ (s : State) (p : Port) (id : Nat) (r : Record), s.inCommand p → s.attached p = true →
    (s.port p).deposit = .opened id → s.record? id = some r → (r.deliveries.map Entry.port).Nodup →
    let m := (r.deposited + 31) / 32
    let sealed := { r with
        state := .sealed, cells := r.cells.take m, account := if m = 0 then none else r.account }.entriesBy
      fun e => if e.stage = Stage.claimed then (if s.attached e.port then .queued else .done .detached) else e.stage
    ∃ t, exec (.sealMsg p) s = .next t ∧ s.onlyStore t ∧
      ({ s.port p with deposit := .none }.replying (s.port p).txn.summary
        ([0x00, byteOf id] ++ twoBytes r.deposited) 0).keepsOwn (t.port p) ∧
      (∀ q, q ≠ p → (s.port q).keepsOwn (t.port q)) ∧ (∀ j, j ≠ id → t.record? j = s.record? j) ∧
      (¬ sealed.allDone →
        t.record? id = some sealed ∧ Retired s t [] noneTold ∧ t.freeList = s.freeList ++ r.cells.drop m) ∧
      (sealed.allDone →
        Retired s t [(id, sealed)] noneTold ∧ t.freeList = s.freeList ++ (r.cells.drop m ++ r.cells.take m)) ∧
      (∀ e ∈ r.deliveries, e.stage = .claimed → s.attached e.port = true →
        (t.port e.port).queue r.cls = (s.port e.port).queue r.cls ++ [id] ∧
          (t.port e.port).intake = (s.port e.port).intake ∧ (t.port e.port).causes.arrival = true) ∧
      (∀ e ∈ r.deliveries, e.stage = .claimed → s.attached e.port = false →
        (t.port e.port).queue r.cls = (s.port e.port).queue r.cls ∧
          (t.port e.port).intake = (s.port e.port).intake - 1 ∧ (t.port e.port).causes = (s.port e.port).causes) ∧
      (∀ q, (∀ e ∈ r.deliveries, e.port = q → e.stage ≠ .claimed) →
        (t.port q).express = (s.port q).express ∧ (t.port q).bulk = (s.port q).bulk ∧
          (t.port q).intake = (s.port q).intake) ∧
      (∀ q,
        (t.port q).queue r.cls.other = (s.port q).queue r.cls.other ∧
          (t.port q).fetch =
            (s.port q).fetch.map fun x => if x.id = id then { x with awaiting := false } else x) ∧
      ∀ q o, (s.port q).fetch = some ⟨id, o, true⟩ → s.attached q = true →
        (t.port q).fetch = some ⟨id, o, false⟩ ∧ (t.port q).causes.data = true

/-- CANCEL of an OPEN record aborts it with cause CANCELLED: its CLAIMED and QUEUED entries end ABORTED and release
their intake, its readers keep it and receive TRUNC, and DATA where they awaited it, its cells stay, the context becomes
NONE, and it retires if no reader holds it, its receipt admitted below 28 notices and late otherwise. No other queue and
no other fetch context changes. -/
def Obligations.CancelAborts : Prop :=
  ∀ (s : State) (p : Port) (id : Nat) (r : Record), s.inCommand p → s.attached p = true →
    (s.port p).deposit = .opened id → s.record? id = some r → (r.deliveries.map Entry.port).Nodup →
    let waits := fun e : Entry => e.stage = .claimed ∨ e.stage = .queued
    let aborted := { r with
        state := .aborted, abortCause := some .cancelled, remaining := none, expired := false }.entriesBy
      fun e => if e.stage = Stage.claimed ∨ e.stage = Stage.queued then .done .aborted else e.stage
    ∃ t, exec (.cancel p) s = .next t ∧ s.onlyStore t ∧
      ({ s.port p with deposit := .none }.replying (s.port p).txn.summary [0x00, byteOf id] 0).keepsOwn
        (t.port p) ∧
      (∀ q, q ≠ p → (s.port q).keepsOwn (t.port q)) ∧ (∀ j, j ≠ id → t.record? j = s.record? j) ∧
      (¬ aborted.allDone → t.record? id = some aborted ∧ Retired s t [] noneTold ∧ t.freeList = s.freeList) ∧
      (aborted.allDone → Retired s t [(id, aborted)] noneTold ∧ t.freeList = s.freeList ++ r.cells) ∧
      (∀ e ∈ r.deliveries, waits e →
        (t.port e.port).intake = (s.port e.port).intake - 1 ∧
          (e.stage = .claimed → (t.port e.port).queue r.cls = (s.port e.port).queue r.cls) ∧
          (e.stage = .queued → (t.port e.port).queue r.cls = ((s.port e.port).queue r.cls).erase id)) ∧
      (∀ q, (∀ e ∈ r.deliveries, e.port = q → ¬ waits e) →
        (t.port q).express = (s.port q).express ∧ (t.port q).bulk = (s.port q).bulk ∧
          (t.port q).intake = (s.port q).intake) ∧
      (∀ q,
        (t.port q).queue r.cls.other = (s.port q).queue r.cls.other ∧
          (t.port q).fetch =
            (s.port q).fetch.map fun x => if x.id = id then { x with awaiting := false } else x) ∧
      ∀ q o w, (s.port q).fetch = some ⟨id, o, w⟩ → s.attached q = true →
        (t.port q).fetch = some ⟨id, o, false⟩ ∧ (t.port q).causes.trunc = true ∧
          (w = true → (t.port q).causes.data = true)

/-! ### Fetching and reading -/

/-- The fetch arbiter: FETCH takes the head of the express queue while the bulk queue is empty or the streak is below the
bias, the head of the bulk queue otherwise, and nothing from empty queues; the streak follows, and nothing but a FETCH
that reaches the arbiter (on an ATTACHED port without a message in hand), teardown completion and chip reset changes
it. -/
def Obligations.FetchArbiter : Prop :=
  (∀ (s : State) (p : Port), s.inCommand p → s.attached p = true → (s.port p).fetch = none →
    let q := s.port p
    ∀ t, exec (.fetch p) s = .next t →
      (q.express ≠ [] → (q.bulk = [] ∨ q.streak < q.bias) →
        (t.port p).express = q.express.tail ∧ (t.port p).bulk = q.bulk ∧
          (t.port p).fetch.map FetchCtx.id = q.express.head? ∧ (t.port p).streak = min (q.streak + 1) 15) ∧
        (q.express ≠ [] → q.bulk ≠ [] → ¬ q.streak < q.bias →
          (t.port p).bulk = q.bulk.tail ∧ (t.port p).express = q.express ∧
            (t.port p).fetch.map FetchCtx.id = q.bulk.head? ∧ (t.port p).streak = 0) ∧
        (q.express = [] → q.bulk ≠ [] →
          (t.port p).bulk = q.bulk.tail ∧ (t.port p).express = [] ∧
            (t.port p).fetch.map FetchCtx.id = q.bulk.head? ∧ (t.port p).streak = 0) ∧
        (q.express = [] → q.bulk = [] →
          (t.port p).fetch = none ∧ (t.port p).streak = 0 ∧ (t.port p).txn.reply.head? = some 0x04)) ∧
    ∀ (c : Instr) (s t : State), exec c s = .next t → ∀ p,
      (t.port p).streak = (s.port p).streak ∨
        c = .fetch p ∧ s.inCommand p ∧ s.attached p = true ∧ (s.port p).fetch = none ∨
        (t.port p).streak = 0 ∧ (c = .teardownCompletion p ∨ c = .chipReset)

/-- FETCH on an ATTACHED port is refused BUSY while a message is held, replies EMPTY from empty queues, and otherwise
makes the head entry of the queue FETCHING, begins a fetch context at offset 0, and replies the record's fields; nothing
else changes. The unused bits of the flags byte read 0 (log entry 21). -/
def Obligations.FetchTakes : Prop :=
  ∀ (s : State) (p : Port), s.inCommand p → s.attached p = true →
    let q := s.port p
    let out := q.txn.summary
    let none14 : List Byte := [0, 0, 0, 0, 0, 0, 0, 0, 0, 0, 0, 0, 0xFF]
    (∀ c, q.fetch = some c → exec (.fetch p) s = .next (s.answered p out (0x11 :: none14))) ∧
      (q.fetch = none →
        (q.express = [] → q.bulk = [] →
          exec (.fetch p) s = .next (s.setPort p ({ q with streak := 0 }.replying out (0x04 :: none14) 0))) ∧
          ∀ id r, s.record? id = some r →
            let record := r.entriesBy fun e => if e.port = p then .fetching else e.stage
            let reply : List Byte :=
              [0x00, byteOf id, portByte r.source, if r.cls = .express then 0x00 else 0x01,
                byteOf ((if r.early then 1 else 0) + if r.state = RecState.opened then 2 else 0)] ++
                twoBytes r.tag.toNat ++ twoBytes r.serial.toNat ++ twoBytes r.deposited ++
                twoBytes (if r.state = RecState.opened then r.declared else 0) ++
                [match r.deliveries.find? fun e => e.port == p with
                  | some ⟨_, some v, _⟩ => portByte v
                  | _ => 0xFF]
            (∀ rest, q.express = id :: rest → (q.bulk = [] ∨ q.streak < q.bias) →
              exec (.fetch p) s =
                .next ((s.putRecord id record).setPort p
                  ({ q with
                    express := rest, streak := min (q.streak + 1) 15, fetch := some ⟨id, 0, false⟩ }.replying out
                      reply 0))) ∧
              ∀ rest, q.bulk = id :: rest → (q.express = [] ∨ ¬ q.streak < q.bias) →
                exec (.fetch p) s =
                  .next ((s.putRecord id record).setPort p
                    ({ q with bulk := rest, streak := 0, fetch := some ⟨id, 0, false⟩ }.replying out reply 0)))

/-- GET on an ATTACHED port is refused NOFETCH without a fetch context; otherwise status, count and awaiting flag follow
the record and the bytes between offset and deposited length, the abort first, and nothing else changes. The form of the
operands and the working fields of the transaction are the model's (log entries 1 and 16). -/
def Obligations.GetDecides : Prop :=
  ∀ (s : State) (p : Port) (max : Byte), s.inArgument p 0x31 [] →
    (s.attached p = false → exec (.get p max) s = .next (s.answered p 0 [0x10, 0, 0])) ∧
      (s.attached p = true → (s.port p).fetch = none →
        exec (.get p max) s = .next (s.answered p 0 [0x19, 0, 0])) ∧
      ∀ c r, s.attached p = true → (s.port p).fetch = some c → s.record? c.id = some r → r.state ≠ .reporting →
        let avail := r.deposited - c.offset
        let count := if r.state = .aborted ∨ avail = 0 then 0 else min (max.toNat + 1) avail
        let status : Byte :=
          if r.state = .aborted then 0x03
          else if avail = 0 then (if r.state = .opened then 0x01 else 0x02) else 0x00
        exec (.get p max) s =
          .next (s.setPort p
            ({ s.port p with
              fetch := some { c with awaiting := decide (r.state = RecState.opened ∧ avail = 0) } }.replying 0
                ([status] ++ twoBytes count) count))

/-- What SDO carries: the summary byte in COMMAND, 0x00 in ARGUMENT and DATA, in REPLY and IGNORE the next byte of the
reply, then the promised payload bytes and 0x00 after them, and nothing while it floats. A promised payload byte is the
byte at the read offset; the offset grows by one and one promised byte less is to come. Every byte that completes in a
transaction has shifted out what SDO carried (log entry 15). -/
def Obligations.PayloadByteShifted : Prop :=
  (∀ (s : State) (p : Port) (c : FetchCtx) (r : Record) (a : Nat) (b : Byte),
    (s.port p).txn.phase = .reply → (s.port p).txn.reply.length ≤ (s.port p).txn.pos → 0 < (s.port p).txn.payload →
    (s.port p).fetch = some c → s.record? c.id = some r → payloadAddr r.cells c.offset = some a →
    Memory.read a s.mem = some b →
      s.dataOut p = some b ∧
        exec (.getPayloadByte p) s =
          .next (s.setPort p { s.port p with
            fetch := some { c with offset := c.offset + 1 }
            txn := { (s.port p).txn with payload := (s.port p).txn.payload - 1, sdo := some b } })) ∧
    (∀ (s : State) (p : Port),
      let x := (s.port p).txn
      (x.phase = .idle ∨ x.phase = .blocked ∨ x.phase = .held → s.dataOut p = none) ∧
        (x.phase = .command → s.dataOut p = some x.summary) ∧
        (x.phase = .argument ∨ x.phase = .data → s.dataOut p = some 0) ∧
        (x.phase = .reply ∨ x.phase = .ignore →
          (∀ b, x.reply[x.pos]? = some b → s.dataOut p = some b) ∧
            (x.reply.length ≤ x.pos → x.payload = 0 → s.dataOut p = some 0))) ∧
    ∀ (c : Instr) (s t : State) (p : Port), exec c s = .next t → c.port? = some p →
      (s.port p).txn.phase ≠ .idle → (s.port p).txn.phase ≠ .blocked → (s.port p).txn.phase ≠ .held →
      c ≠ .selectFall p → (∀ k, c ≠ .selectRise p k) → (∀ k, c ≠ .portResetFall p k) → c ≠ .portResetRise p →
      c ≠ .leaseExpiry p → c ≠ .teardownCompletion p → c ≠ .receiptPosting p →
        (t.port p).txn.sdo = s.dataOut p

/-- A RELEASE that ends the delivery gives it its outcome, clears the fetch context, releases one unit of intake, and
retires a record that is SEALED or ABORTED with every entry DONE: with its receipt wanted and its source ATTACHED, the
receipt joins the source's notices below 28 and sets NOTICE, and otherwise the record becomes REPORTING and joins the
source's backlog; without, it becomes FREE. -/
def Obligations.ReleaseEnds : Prop :=
  ∀ (s : State) (p : Port) (d : Byte) (c : FetchCtx) (r : Record) (f : Fate), s.attached p = true →
    s.inArgument p 0x32 [] → d = 0x01 ∨ d = 0x02 ∨ d = 0x03 → (s.port p).fetch = some c → s.record? c.id = some r →
    (r.deliveries.map Entry.port).Nodup → (∃ e ∈ r.deliveries, e.port = p ∧ e.stage = .fetching) →
    r.state ≠ .reporting → r.releaseOutcome d = some f →
    let ended := r.entriesBy fun e => if e.port = p then .done f else e.stage
    let retires := r.state ≠ .opened ∧ ended.allDone
    ∃ t, exec (.release p d) s = .next t ∧ s.onlyStore t ∧
      (t.port p).fetch = none ∧ (t.port p).intake = (s.port p).intake - 1 ∧
      (t.port p).express = (s.port p).express ∧ (t.port p).bulk = (s.port p).bulk ∧
      ((s.port p).replying 0 [0x00, byteOf c.id, f.code] 0).keepsOwn (t.port p) ∧
      (∀ q, q ≠ p →
        (s.port q).keepsOwn (t.port q) ∧ (t.port q).express = (s.port q).express ∧
          (t.port q).bulk = (s.port q).bulk ∧ (t.port q).intake = (s.port q).intake ∧
          (t.port q).fetch = (s.port q).fetch) ∧
      (∀ j, j ≠ c.id → t.record? j = s.record? j) ∧
      (¬ retires → t.record? c.id = some ended ∧ Retired s t [] noneTold ∧ t.freeList = s.freeList) ∧
      (retires → Retired s t [(c.id, ended)] noneTold ∧ t.freeList = s.freeList ++ r.cells)

/-- RELEASE on an ATTACHED port is refused NOFETCH without a fetch context and RANGE for a code that is no disposition. A
DEFER that returns the delivery sets its stage back to QUEUED and puts its message at the head of the port's queue for
the class; the context becomes NONE, and intake, streak, causes and everything else stay. -/
def Obligations.DeferReturns : Prop :=
  ∀ (s : State) (p : Port) (d : Byte), s.attached p = true → s.inArgument p 0x32 [] →
    ((s.port p).fetch = none → exec (.release p d) s = .next (s.answered p 0 [0x19, 0, 0])) ∧
      ∀ c, (s.port p).fetch = some c →
        (d ≠ 0x01 → d ≠ 0x02 → d ≠ 0x03 → exec (.release p d) s = .next (s.answered p 0 [0x12, 0, 0])) ∧
          ∀ r, d = 0x03 → s.record? c.id = some r → r.releaseOutcome d = none →
            exec (.release p d) s =
              .next ((s.putRecord c.id (r.entriesBy fun e => if e.port = p then .queued else e.stage)).setPort p
                (({ s.port p with fetch := none }.setQueue r.cls (c.id :: (s.port p).queue r.cls)).replying 0
                  [0x00, byteOf c.id, 0x07] 0))

/-- The checks of FORWARD on an ATTACHED port in their order, each refusal with its reply; a refusal changes nothing
else. -/
def Obligations.ForwardRefused : Prop :=
  ∀ (s : State) (p : Port) (m : Byte), s.attached p = true → s.inArgument p 0x33 [] →
    ((s.port p).fetch = none → exec (.forward p m) s = .next (s.answered p 0 [0x19, 0, 0, 0, 0, 0])) ∧
      ∀ c r, (s.port p).fetch = some c → s.record? c.id = some r →
        let named : Port → Bool := fun q => m.getLsbD (portNumber q)
        let reasons : PerPort Reason := PerPort.ofFn fun q =>
          if named q = false then .unnamed
          else if q = p then .self
          else if r.deliveries.any fun e => e.port == q then .present
          else if s.attached q = false then .notAttached
          else if (s.port q).limit ≤ (s.port q).intake then .limit
          else .admitted
        let bytes : List Byte := [(reasons.get .p0).code, (reasons.get .p1).code, (reasons.get .p2).code,
          (reasons.get .p3).code]
        let range := ∀ q, named q = false
        let unadmitted := ∀ q, reasons.get q ≠ .admitted
        let full := (∃ q, named q = true ∧ q ≠ p) ∧ ∀ q, named q = true → q ≠ p → reasons.get q = .limit
        (range → exec (.forward p m) s = .next (s.answered p 0 [0x12, 0, 0, 0, 0, 0])) ∧
          (¬ range → r.state ≠ .sealed → exec (.forward p m) s = .next (s.answered p 0 [0x10, 0, 0, 0, 0, 0])) ∧
          (¬ range → r.state = .sealed → r.expired = true →
            exec (.forward p m) s = .next (s.answered p 0 [0x1B, 0, 0, 0, 0, 0])) ∧
          (¬ range → r.state = .sealed → r.expired = false → unadmitted →
            (full → exec (.forward p m) s = .next (s.answered p 0 ([0x16, 0] ++ bytes))) ∧
              (¬ full → exec (.forward p m) s = .next (s.answered p 0 ([0x15, 0] ++ bytes))))

/-- A FORWARD that passes its checks appends a QUEUED entry via the forwarder for each admitted port, in ascending
order, claims its intake, queues the message at its tail and sets its ARRIVAL; nothing else changes. The unused bits of
the admitted mask read 0 (log entry 21). -/
def Obligations.ForwardCompletes : Prop :=
  ∀ (s : State) (p : Port) (m : Byte) (c : FetchCtx) (r : Record), s.attached p = true → s.inArgument p 0x33 [] →
    (s.port p).fetch = some c → s.record? c.id = some r → r.state = .sealed → r.expired = false →
    let named : Port → Bool := fun q => m.getLsbD (portNumber q)
    let admitted : Port → Bool := fun q =>
      named q && q != p && !(r.deliveries.any fun e => e.port == q) && s.attached q &&
        decide ((s.port q).intake < (s.port q).limit)
    let reasons : List Byte := [Port.p0, Port.p1, Port.p2, Port.p3].map fun q =>
      if named q = false then 0x01
      else if q = p then 0x03
      else if r.deliveries.any fun e => e.port == q then 0x06
      else if s.attached q = false then 0x04
      else if (s.port q).limit ≤ (s.port q).intake then 0x05 else 0x02
    (∃ q, admitted q = true) →
      ∃ t, exec (.forward p m) s = .next t ∧ t = { s with ports := t.ports, records := t.records } ∧
        t.record? c.id = some { r with
          deliveries := r.deliveries ++ (allPorts.filter admitted).map fun q => ⟨q, some p, .queued⟩ } ∧
        (∀ j, j ≠ c.id → t.record? j = s.record? j) ∧
        t.port p = (s.port p).replying 0 ([0x00, portMask (PerPort.ofFn admitted)] ++ reasons) 0 ∧
        ∀ q, q ≠ p →
          t.port q =
            if admitted q then
              { (s.port q).setQueue r.cls ((s.port q).queue r.cls ++ [c.id]) with
                intake := (s.port q).intake + 1, causes := { (s.port q).causes with arrival := true } }
            else s.port q

/-! ### Notices, agreement and inspection -/

/-- The posting check: with fewer than 28 notices and a backlog, the record at its head is posted as a receipt and
becomes FREE, and NOTICE is set; otherwise nothing changes. That it is an event of its own is the model's reading (log
entry 4). -/
def Obligations.ReceiptPosted : Prop :=
  ∀ (s : State) (p : Port), s.attached p = true →
    (∀ id rest r, (s.port p).backlog = id :: rest → (s.port p).notices.length < 28 → s.record? id = some r →
      exec (.receiptPosting p) s =
        .next ((s.freeRecord id).setPort p { s.port p with
          backlog := rest
          notices := (s.port p).notices ++ [Notice.receipt (r.composedReceipt id)]
          causes := { (s.port p).causes with notice := true } })) ∧
      ((s.port p).backlog = [] ∨ 28 ≤ (s.port p).notices.length → exec (.receiptPosting p) s = .next s)

/-- NOTICE on an ATTACHED port replies EMPTY from an empty queue; otherwise it removes the head notice, posts the head
of the backlog if fewer than 28 notices are left, and replies the notice with the number left in the queue. A notice
has the bytes of R183. -/
def Obligations.NoticeRead : Prop :=
  (∀ (s : State) (p : Port), s.inCommand p → s.attached p = true →
      let q := s.port p
      let out := q.txn.summary
      (q.notices = [] → exec (.notice p) s = .next (s.answered p out [0x04, 0, 0])) ∧
        ∀ n rest, q.notices = n :: rest →
          (q.backlog = [] ∨ 28 ≤ rest.length →
            exec (.notice p) s =
              .next (s.setPort p
                ({ q with notices := rest }.replying out ([0x00, byteOf rest.length] ++ n.bytes) 0))) ∧
            ∀ id more r, q.backlog = id :: more → rest.length < 28 → s.record? id = some r →
              exec (.notice p) s =
                .next ((s.freeRecord id).setPort p
                  ({ q with
                    backlog := more, notices := rest ++ [Notice.receipt (r.composedReceipt id)],
                    causes := { q.causes with notice := true } }.replying out
                      ([0x00, byteOf (rest.length + 1)] ++ n.bytes) 0))) ∧
    (∀ r b k, (Notice.peer r b k).bytes = [0x02, portByte r, if b then 0x01 else 0x00, byteOf k]) ∧
        (∀ a : AgreementInfo,
          (Notice.agreement a).bytes =
            [0x03,
              match a.phase with
              | .proposed => 0x01
              | .adopted => 0x02
              | .declined => 0x03
              | .timedOut => 0x04
              | .withdrawn => 0x05,
              match a.setting with
              | .tick => 0x01
              | .guard => 0x02
              | .deflife => 0x03,
              byteOf (a.value / 256), byteOf a.value, portByte a.proposer,
              match a.decliner with
              | none => 0xFF
              | some d => portByte d]) ∧
        ∀ x : Receipt,
          (Notice.receipt x).bytes =
            [0x01, byteOf x.id, byteOf (x.serial.toNat / 256), byteOf x.serial.toNat, byteOf (x.tag.toNat / 256),
              byteOf x.tag.toNat, if x.cls = .express then 0x00 else 0x01, byteOf (x.length / 256), byteOf x.length,
              if x.abortCause = none then 0x02 else 0x03,
              match x.abortCause with
              | none => 0x00
              | some .cancelled => 0x01
              | some .expired => 0x02
              | some .sourceLost => 0x03,
              byteOf x.outcomes.length] ++
              x.outcomes.flatMap fun e =>
                [portByte e.port,
                  match e.via with
                  | none => 0xFF
                  | some v => portByte v,
                  match e.fate with
                  | none => 0x00
                  | some .accepted => 0x01
                  | some .refused => 0x02
                  | some .expired => 0x03
                  | some .detached => 0x04
                  | some .aborted => 0x05
                  | some .truncated => 0x06]

/-- PROPOSE on an ATTACHED port is refused BUSY while the slot is held, and RANGE for a code that names no setting or a
value out of its range; otherwise the proposal of all ATTACHED ports fills the slot and is offered PROPOSED to the
others, or is adopted at once where the proposer is alone, who alone is told ADOPTED; a GUARD value runs the space-wait
check, and nothing else changes. The unused bits of the required mask read 0 (log entry 21). -/
def Obligations.ProposeFills : Prop :=
  ∀ (s : State) (p : Port) (code hi lo : Byte), s.inArgument p 0x50 [code, hi] →
    let v := hi.toNat * 256 + lo.toNat
    let ok : Setting → Prop := fun st =>
      match st with
      | .tick => code = 0x01 ∧ v ≤ 3
      | .guard => code = 0x02 ∧ v ≤ 64
      | .deflife => code = 0x03
    let all : PortSet := PerPort.ofFn s.attached
    (s.attached p = false → exec (.propose p lo) s = .next (s.answered p 0 [0x10, 0, 0])) ∧
      (s.attached p = true → ∀ a, s.slot = some a →
        exec (.propose p lo) s = .next (s.answered p 0 [0x11, 0, 0])) ∧
      (s.attached p = true → s.slot = none → (∀ st, ¬ ok st) →
        exec (.propose p lo) s = .next (s.answered p 0 [0x12, 0, 0])) ∧
      (s.attached p = true → s.slot = none → ∀ st, ok st → (∃ q, q ≠ p ∧ s.attached q = true) →
        ∃ t, exec (.propose p lo) s = .next t ∧ t = { s with ports := t.ports, slot := t.slot } ∧
          t.slot = some ⟨st, v, p, all, PerPort.ofFn (· == p), 32⟩ ∧
          t.port p = (s.port p).replying 0 [0x00, portMask all, 0x01] 0 ∧
          ∀ q, q ≠ p → t.port q = (s.port q).toldAgreement ⟨.proposed, st, v, p, none⟩) ∧
      (s.attached p = true → s.slot = none → ∀ st, ok st → (∀ q, s.attached q = true → q = p) →
        ∃ t, exec (.propose p lo) s = .next t ∧
          SettingTaken
            ((s.withSetting st v).setPort p
              (((s.port p).toldAgreement ⟨.adopted, st, v, p, none⟩).replying 0 [0x00, portMask all, 0x02] 0)) t st)

/-- ENDORSE on an ATTACHED port is refused EMPTY, MISMATCH and NOTREQ by its checks; an endorsement that does not
complete the set is recorded, one given before changes nothing, and the one that completes it adopts the proposal: the
setting takes the value, every required port is told ADOPTED, a GUARD value runs the space-wait check, and nothing else
changes. The unused bits of the mask of missing ports read 0 (log entry 21). -/
def Obligations.EndorseCounts : Prop :=
  ∀ (s : State) (p : Port) (code hi lo : Byte), s.inArgument p 0x51 [code, hi] →
    (s.attached p = false → exec (.endorse p lo) s = .next (s.answered p 0 [0x10, 0, 0])) ∧
      (s.attached p = true → s.slot = none → exec (.endorse p lo) s = .next (s.answered p 0 [0x04, 0, 0])) ∧
      ∀ a, s.attached p = true → s.slot = some a →
        let named := code = a.setting.code ∧ hi.toNat * 256 + lo.toNat = a.value
        let b : Proposal := { a with endorsers := a.endorsers.set p true }
        let missing : Proposal → Byte := fun x => portMask (PerPort.ofFn fun q => x.required.get q && !x.endorsers.get q)
        (¬ named → exec (.endorse p lo) s = .next (s.answered p 0 [0x1C, 0, 0])) ∧
          (named → a.required.get p = false → exec (.endorse p lo) s = .next (s.answered p 0 [0x1D, 0, 0])) ∧
          (named → a.required.get p = true →
            (a.endorsers.get p = true →
              exec (.endorse p lo) s = .next (s.answered p 0 [0x00, 0x01, missing a])) ∧
              (a.endorsers.get p = false → b.endorsers ≠ b.required →
                exec (.endorse p lo) s =
                  .next { s.answered p 0 [0x00, 0x01, missing b] with slot := some b }) ∧
              (a.endorsers.get p = false → b.endorsers = b.required →
                ∃ t, exec (.endorse p lo) s = .next t ∧
                  SettingTaken
                    { s.withSetting a.setting a.value with
                      slot := none
                      ports := PerPort.ofFn fun q =>
                        let x := if a.required.get q = true then
                            (s.port q).toldAgreement ⟨.adopted, a.setting, a.value, a.proposer, none⟩
                          else s.port q
                        if q = p then x.replying 0 [0x00, 0x02, 0x00] 0 else x } t a.setting))

/-- DECLINE on an ATTACHED port is refused EMPTY, MISMATCH and NOTREQ by its checks; otherwise the proposal ends, every
required port is offered DECLINED with the decliner, and no setting changes. The form of the operands and the working
fields of the transaction are the model's (log entries 1 and 16). -/
def Obligations.DeclineEnds : Prop :=
  ∀ (s : State) (p : Port) (code : Byte), s.inArgument p 0x52 [] →
    (s.attached p = false → exec (.decline p code) s = .next (s.answered p 0 [0x10])) ∧
      (s.attached p = true → s.slot = none → exec (.decline p code) s = .next (s.answered p 0 [0x04])) ∧
      ∀ a, s.attached p = true → s.slot = some a →
        (code ≠ a.setting.code → exec (.decline p code) s = .next (s.answered p 0 [0x1C])) ∧
          (code = a.setting.code → a.required.get p = false →
            exec (.decline p code) s = .next (s.answered p 0 [0x1D])) ∧
          (code = a.setting.code → a.required.get p = true →
            ∃ t, exec (.decline p code) s = .next t ∧ t = { s with ports := t.ports, slot := none } ∧
              ∀ q,
                let x := if a.required.get q = true then
                    (s.port q).toldAgreement ⟨.declined, a.setting, a.value, a.proposer, some p⟩
                  else s.port q
                t.port q = if q = p then x.replying 0 [0x00] 0 else x)

/-- INSPECT of kind MESSAGE on an ATTACHED port reports a FREE record, the record to its source or to a port of its
delivery list, and DENIED to any other port; nothing else changes. The unused bits of the flags byte read 0 (log entry
21). -/
def Obligations.InspectMessageReports : Prop :=
  ∀ (s : State) (p : Port) (id : Byte), s.attached p = true → s.inArgument p 0x60 [0x01] →
    (s.record? id.toNat = none →
      exec (.inspectMessage p id) s = .next (s.answered p 0 (List.replicate 19 0))) ∧
      ∀ r, s.record? id.toNat = some r →
        let named := r.source = p ∨ ∃ e ∈ r.deliveries, e.port = p
        (¬ named → exec (.inspectMessage p id) s = .next (s.answered p 0 (0x1E :: List.replicate 18 0))) ∧
          (named →
            exec (.inspectMessage p id) s =
              .next (s.answered p 0
                ([0x00,
                  match r.state with
                  | .opened => 0x01
                  | .sealed => 0x02
                  | .aborted => 0x03
                  | .reporting => 0x04,
                  portByte r.source] ++ twoBytes r.serial.toNat ++
                  [if r.cls = .express then 0x00 else 0x01,
                    byteOf ((if r.early then 1 else 0) + (if r.receipt then 2 else 0) + if r.expired then 4 else 0)] ++
                  twoBytes r.tag.toNat ++ twoBytes r.declared ++ twoBytes r.deposited ++
                  [byteOf r.cells.length,
                    match r.account with
                    | none => 0x00
                    | some .reserve => 0x01
                    | some .shared => 0x02] ++
                  (match r.remaining with
                    | none => [0x00, 0x00]
                    | some k => twoBytes k) ++
                  [match r.abortCause with
                    | none => 0x00
                    | some .cancelled => 0x01
                    | some .expired => 0x02
                    | some .sourceLost => 0x03,
                    byteOf r.deliveries.length] ++
                  r.deliveries.flatMap fun e =>
                    [portByte e.port,
                      match e.via with
                      | none => 0xFF
                      | some v => portByte v] ++
                      match e.stage with
                      | .claimed => [0x00, 0x00]
                      | .queued => [0x01, 0x00]
                      | .fetching => [0x02, 0x00]
                      | .done f => [0x03, f.code])))

/-- The other kinds of INSPECT on an ATTACHED port: POOL reports the nine accounts and the length of the free list,
SETTINGS the three settings and the slot, a code that is no kind is refused RANGE by the status byte alone; the id byte
is not used, and nothing else changes. The unused bits of the port masks read 0 (log entry 21). -/
def Obligations.InspectOtherReports : Prop :=
  ∀ (s : State) (p : Port) (id : Byte), s.attached p = true →
    (s.inArgument p 0x60 [0x02] →
      exec (.inspectPool p id) s =
        .next (s.answered p 0
          ([0x00] ++
            ([Port.p0, Port.p1, Port.p2, Port.p3].flatMap fun q =>
              twoBytes (s.port q).resExpress.size ++ twoBytes (s.port q).resExpress.charged ++
                twoBytes (s.port q).resBulk.size ++ twoBytes (s.port q).resBulk.charged) ++
            twoBytes s.sharedSize ++ twoBytes s.sharedCharged ++ twoBytes s.freeList.length))) ∧
      (s.inArgument p 0x60 [0x03] →
        exec (.inspectSettings p id) s =
          .next (s.answered p 0
            ([0x00, byteOf s.tick, byteOf s.guard] ++ twoBytes s.deflife ++
              match s.slot with
              | none => [0, 0, 0, 0, 0, 0, 0, 0]
              | some a =>
                [0x01, a.setting.code] ++ twoBytes a.value ++
                  [portByte a.proposer, portMask a.required, portMask a.endorsers, byteOf a.remaining]))) ∧
      ∀ k, k ≠ 0x01 → k ≠ 0x02 → k ≠ 0x03 → s.inArgument p 0x60 [k] →
        exec (.inspectInvalidKind p id) s = .next (s.answered p 0 [0x12])

/-! ### The serial port and its lines -/

/-- The completion of a byte: ignored outside a transaction (log entry 8), a command byte with arguments and the
arguments before the last are collected, a command byte that names no command begins the reply BADCMD and the phase
IGNORE, and a reply byte shifts out the next byte of the reply, or fill after its end. The command byte selects the
command, and the last argument byte takes it: a byte is the event of one row, which is not refused, and within a
transaction every other row of bytes is refused (log entry 9). -/
def Obligations.BytesFramed : Prop :=
  ∀ (s : State) (p : Port) (b : Byte),
    let q := s.port p
    let table : List (Byte × Nat) :=
      [(0x13, 4), (0x14, 1), (0x20, 3), (0x21, 9), (0x22, 1), (0x31, 1), (0x32, 1), (0x33, 1), (0x50, 3), (0x51, 3),
        (0x52, 1), (0x60, 2)]
    let plain : List Byte := [0x10, 0x11, 0x12, 0x23, 0x24, 0x30, 0x40]
    (q.txn.phase = .idle ∨ q.txn.phase = .blocked ∨ q.txn.phase = .held → ∀ c, c.port? = some p →
      c ≠ .selectFall p → (∀ k, c ≠ .selectRise p k) → (∀ k, c ≠ .portResetFall p k) → c ≠ .portResetRise p →
      c ≠ .leaseExpiry p → c ≠ .teardownCompletion p → c ≠ .receiptPosting p → exec c s = .next s) ∧
      (s.inCommand p → b ∈ table.map Prod.fst →
        exec (.argumentByteReceived p b) s =
          .next (s.setPort p { q with
            txn := { q.txn with phase := .argument, collected := [b], sdo := some q.txn.summary } })) ∧
      (∀ code args n, s.inArgument p code args → (code, n) ∈ table → args.length + 1 < n →
        exec (.argumentByteReceived p b) s =
          .next (s.setPort p { q with txn := { q.txn with collected := code :: args ++ [b], sdo := some 0 } })) ∧
      (s.inCommand p → b ∉ table.map Prod.fst → b ∉ plain →
        exec (.badcmd p b) s =
          .next (s.setPort p { q with
            txn := ⟨.ignore, q.txn.summary, [], [0x1F], 0, 0, ⟨0, .ok, 0, false, 0⟩, some q.txn.summary⟩ })) ∧
      (q.txn.phase = .reply ∨ q.txn.phase = .ignore →
        (∀ x, q.txn.reply[q.txn.pos]? = some x →
          exec (.replyByteShiftedOut p) s =
            .next (s.setPort p { q with txn := { q.txn with pos := q.txn.pos + 1, sdo := some x } })) ∧
          (q.txn.reply.length ≤ q.txn.pos → q.txn.payload = 0 →
            exec (.replyByteShiftedOut p) s = .next (s.setPort p { q with txn := { q.txn with sdo := some 0 } }))) ∧
      (s.inCommand p →
        s.byteRow p b = some
          (if b = 0x10 then .status p else if b = 0x11 then .attach p else if b = 0x12 then .detach p
          else if b = 0x23 then .sealMsg p else if b = 0x24 then .cancel p else if b = 0x30 then .fetch p
          else if b = 0x40 then .notice p else if b ∈ table.map Prod.fst then .argumentByteReceived p b
          else .badcmd p b)) ∧
      (∀ code args n, s.inArgument p code args → (code, n) ∈ table →
        (args.length + 1 < n → s.byteRow p b = some (.argumentByteReceived p b)) ∧
          (args.length + 1 = n →
            s.byteRow p b = some
              (if code = 0x13 then .setport p b else if code = 0x14 then .clear p b
              else if code = 0x20 then .reserve p b else if code = 0x21 then .openMsg p b
              else if code = 0x22 then .put p b else if code = 0x31 then .get p b
              else if code = 0x32 then .release p b else if code = 0x33 then .forward p b
              else if code = 0x50 then .propose p b else if code = 0x51 then .endorse p b
              else if code = 0x52 then .decline p b
              else if args = [0x01] then .inspectMessage p b else if args = [0x02] then .inspectPool p b
              else if args = [0x03] then .inspectSettings p b else .inspectInvalidKind p b))) ∧
      (∀ c, s.byteRow p b = some c → ∀ e, exec c s ≠ .refused e) ∧
      (¬ (q.txn.phase = .idle ∨ q.txn.phase = .blocked ∨ q.txn.phase = .held) →
        (∀ c ∈ [Instr.setport p b, .clear p b, .reserve p b, .openMsg p b, .put p b, .putDataByte p b, .get p b,
            .release p b, .forward p b, .propose p b, .endorse p b, .decline p b, .inspectMessage p b,
            .inspectPool p b, .inspectSettings p b, .inspectInvalidKind p b, .badcmd p b, .argumentByteReceived p b],
          s.byteRow p b ≠ some c → exec c s = .refused .otherEvent) ∧
          (¬ s.inCommand p →
            ∀ c ∈ [Instr.status p, .attach p, .detach p, .sealMsg p, .cancel p, .fetch p, .notice p],
              exec c s = .refused .otherEvent) ∧
          (∀ c ∈ [Instr.getPayloadByte p, .replyByteShiftedOut p],
            s.byteRow p b ≠ some c → exec c s = .refused .otherEvent))

/-- A falling select begins a transaction at an IDLE port and captures its summary byte; a rising select ends it, sets
the frame-error flag by the table of R163, and reloads the lease counter of an ATTACHED port. Without an edge nothing
happens (log entry 8). -/
def Obligations.SelectFrames : Prop :=
  ∀ (s : State) (p : Port) (k : Nat),
    let q := s.port p
    let pending := q.mode = .attached ∧
      (q.causes.arrival = true ∧ q.mask.arrival = true ∨ q.causes.notice = true ∧ q.mask.notice = true ∨
        q.causes.space = true ∧ q.mask.space = true ∨ q.causes.data = true ∧ q.mask.data = true ∨
        q.causes.trunc = true ∧ q.mask.trunc = true)
    let summary : Byte :=
      byteOf ((match q.mode with | .detached => 0 | .attached => 64 | .teardown => 128) +
        (if pending then 32 else 0) + (if q.notices = [] then 0 else 16) +
        (if q.express = [] ∧ q.bulk = [] then 0 else 8) + (if q.fetch = none then 0 else 4) +
        (match q.deposit with | .opened _ => 2 | _ => 0) + 1)
    let outside := q.txn.phase = .idle ∨ q.txn.phase = .blocked ∨ q.txn.phase = .held
    (q.selHigh = true → q.txn.phase = .idle →
      exec (.selectFall p) s =
        .next (s.setPort p { q with
          selHigh := false, txn := ⟨.command, summary, [], [], 0, 0, ⟨0, .ok, 0, false, 0⟩, none⟩ })) ∧
      (q.selHigh = true → q.txn.phase ≠ .idle →
        exec (.selectFall p) s = .next (s.setPort p { q with selHigh := false })) ∧
      (q.selHigh = false → exec (.selectFall p) s = .next s) ∧
      (q.selHigh = false →
        exec (.selectRise p k) s =
          .next (s.setPort p { q with
            selHigh := true
            frameError := q.flagAtEnd k
            leaseCounter := if ¬ outside ∧ q.mode = .attached then q.leasePeriod else q.leaseCounter
            txn := if q.txn.phase = .held then q.txn else Txn.quiet .idle })) ∧
      (q.selHigh = true → exec (.selectRise p k) s = .next s)

/-- A falling port reset line abandons the transaction, sets the frame-error flag as a rising select would, holds the
port, and starts the teardown of an ATTACHED port with cause PORT_RESET. Without an edge nothing happens (log entry
8). -/
def Obligations.PortResetFalls : Prop :=
  ∀ (s : State) (p : Port) (k : Nat),
    let q := s.port p
    (q.prstHigh = true → s.attached p = false →
      exec (.portResetFall p k) s =
        .next (s.setPort p { q with prstHigh := false, frameError := q.flagAtEnd k, txn := Txn.quiet .held })) ∧
      (BooksOk s → q.prstHigh = true → s.attached p = true →
        ∃ t, exec (.portResetFall p k) s = .next t ∧ TeardownStarted s t p .portReset ∧
          (t.port p).prstHigh = false ∧ (t.port p).frameError = q.flagAtEnd k ∧ (t.port p).txn = Txn.quiet .held) ∧
      (q.prstHigh = false → exec (.portResetFall p k) s = .next s)

/-- A reset line that rises lets a port listen: it becomes IDLE with select high and BLOCKED with select low, or stays
HELD by the other line; with RSTn the first tick interval begins. Without an edge nothing happens (log entry 8). -/
def Obligations.ResetLinesRise : Prop :=
  ∀ (s : State) (p : Port),
    let q := s.port p
    (q.prstHigh = false →
      exec (.portResetRise p) s =
        .next (s.setPort p { q with
          prstHigh := true
          txn := Txn.quiet
            (if s.rstHigh = false then .held else if q.selHigh = true then .idle else .blocked) })) ∧
      (q.prstHigh = true → exec (.portResetRise p) s = .next s) ∧
      (s.rstHigh = false →
        exec .chipResetRelease s =
          .next { s with
            rstHigh := true
            interval := some s.tick
            ports := PerPort.ofFn fun r =>
              { s.port r with
                txn := Txn.quiet
                  (if (s.port r).prstHigh = false then .held
                  else if (s.port r).selHigh = true then .idle else .blocked) } }) ∧
      (s.rstHigh = true → exec .chipResetRelease s = .next s)

/-! ### Events of the whole part -/

/-- Chip reset gives every item its reset value, every port DETACHED and HELD with its lines as they stand, and no tick
interval, and keeps the queue of waiting commands; that the payload store is emptied is the model's choice (log entry
7). -/
def Obligations.ChipResetResets : Prop :=
  ∀ s : State,
    exec .chipReset s =
      .next
        { pending := s.pending, rstHigh := false, records := [], freeList := List.range 1024, mem := [],
          sharedCharged := 0, tick := 1, guard := 16, deflife := 0, slot := none, interval := none
          ports := PerPort.ofFn fun p =>
            { selHigh := (s.port p).selHigh, prstHigh := (s.port p).prstHigh, txn := Txn.quiet .held,
              mode := .detached, lastCause := .chipReset, causes := ⟨false, false, false, false, false⟩,
              mask := ⟨false, false, false, false, false⟩, frameError := false, bias := 4, leasePeriod := 0,
              deposit := .none, leaseCounter := 0, express := [], bulk := [], intake := 0, limit := 64, streak := 0,
              fetch := none, notices := [], backlog := [], serial := 0, resExpress := ⟨0, 0⟩, resBulk := ⟨0, 0⟩,
              wait := none } }

/-- A tick counts every lifetime, every lease outside a transaction and the proposal down by one and begins the next
interval; then what stands at 0 is taken owner by owner, in whatever order, which is an operand of the row (log entry
3). What the owners take is what the rows EXPIRY_OF_OPEN_RECORD, EXPIRY_OF_SEALED_RECORD, LEASE_EXPIRY and
PROPOSAL_TIMEOUT do. A lifetime, a lease or a proposal that stood at 1 ends in that tick, every other goes down by one,
whatever else ends; the cells that the tick returns join the free list in one run for each record, in ascending order of
id whatever the order of the owners; and where no count stood at 1 nothing else changes. No tick is delivered while RSTn
is low (log entry 8). The order of the free list where two leases end and of a third port's receipts, which the whole
next state fixes, is the model's choice (log entry 20). -/
def Obligations.TickCounts : Prop :=
  (∀ (s : State) (order : List TickTask),
    let counts : Port → Bool := fun p =>
      s.attached p && (s.port p).leasePeriod != 0 &&
        ((s.port p).txn.phase == .idle || (s.port p).txn.phase == .blocked || (s.port p).txn.phase == .held)
    let leaseEnds : Port → Bool := fun p => counts p && (s.port p).leaseCounter == 1
    let lower : Record → Record := fun r =>
      if r.state = .opened ∨ r.state = .sealed then { r with remaining := r.remaining.map fun n => n - 1 } else r
    let counted : State := { s with
      interval := some s.tick
      slot := s.slot.map fun a => { a with remaining := a.remaining - 1 }
      records := s.records.map fun e => (e.1, lower e.2)
      ports := PerPort.ofFn fun p =>
        if counts p then { s.port p with leaseCounter := (s.port p).leaseCounter - 1 } else s.port p }
    let expired : Record → Record := fun r =>
      if r.state = .opened then
        { r with state := .aborted, abortCause := some .expired, remaining := none, expired := true }.entriesBy
          fun e => if e.stage = Stage.claimed ∨ e.stage = Stage.queued then .done .expired else e.stage
      else
        { r with remaining := none, expired := true }.entriesBy
          fun e => if e.stage = Stage.queued then .done .expired else e.stage
    (s.rstHigh = false → exec (.tick order) s = .next s) ∧
      (s.rstHigh = true →
        let u := (order ++ [TickTask.messages, .lease .p0, .lease .p1, .lease .p2, .lease .p3, .proposal]).foldl
          State.tickTask counted
        exec (.tick order) s =
          .next { u with
            freeList := s.freeList ++
              s.records.flatMap fun e => if ((u.record? e.1).map Record.cells).getD [] = [] then e.2.cells else [] }) ∧
      (s.rstHigh = true → CountsOk s → BooksOk s →
        ∃ t, exec (.tick order) s = .next t ∧
          (∀ id r, s.record? id = some r → r.remaining ≠ some 1 → leaseEnds r.source = false →
            (∀ p c, leaseEnds p = true → (s.port p).fetch = some c → c.id ≠ id) → t.record? id = some (lower r)) ∧
          (∀ id r n r', s.record? id = some r → r.remaining = some n → 2 ≤ n → t.record? id = some r' →
            r'.state = .opened ∨ r'.state = .sealed → r'.remaining = some (n - 1)) ∧
          (∀ id r r', s.record? id = some r → r.remaining = some 1 → t.record? id = some r' →
            r'.state ≠ .opened ∧ (r'.state = .sealed → r'.expired = true)) ∧
          (∀ p, leaseEnds p = true →
            (t.port p).mode = .teardown ∧ (t.port p).lastCause = .lease ∧ (t.port p).leaseCounter = 0) ∧
          (∀ p, leaseEnds p = false →
            (t.port p).mode = (s.port p).mode ∧ (t.port p).lastCause = (s.port p).lastCause ∧
              (t.port p).leaseCounter =
                if counts p then (s.port p).leaseCounter - 1 else (s.port p).leaseCounter) ∧
          (∀ a, s.slot = some a →
            (a.remaining = 1 → t.slot = none) ∧
              (2 ≤ a.remaining → (∀ p, a.required.get p = true → leaseEnds p = false) →
                t.slot = some { a with remaining := a.remaining - 1 }) ∧
              (∀ b, t.slot = some b →
                b.remaining = a.remaining - 1 ∧ b.setting = a.setting ∧ b.value = a.value ∧ b.proposer = a.proposer) ∧
              ((∀ p, a.required.get p = true → leaseEnds p = false) →
                t.settings = (s.tick, s.guard, s.deflife, some s.tick))) ∧
          (s.slot = none → t.slot = none ∧ t.settings = (s.tick, s.guard, s.deflife, some s.tick)) ∧
          ((∀ p, leaseEnds p = false) →
            (∀ id r, s.record? id = some r → r.remaining = some 1 →
              ((expired r).over = false → t.record? id = some (expired r)) ∧
                ((expired r).over = true →
                  t.record? id = none ∨
                    r.receipt = true ∧ s.attached r.source = true ∧
                      t.record? id = some
                        { expired r with state := .reporting, cells := [], account := none }) ∧
                (r.state = .opened → (t.port r.source).deposit = .lapsed id r.deposited)) ∧
              t.freeList = s.freeList ++
                (s.records.filter fun e => e.2.remaining == some 1 && (expired e.2).over).flatMap
                  fun e => e.2.cells) ∧
          ((∀ e ∈ s.records, e.2.remaining ≠ some 1) → (∀ p, leaseEnds p = false) →
            (∀ a, s.slot = some a → 2 ≤ a.remaining) → t = counted))) ∧
    (∀ (u : State) (p : Port), exec (.leaseExpiry p) u = .next (u.tickTask (.lease p))) ∧
    (∀ u : State, exec .proposalTimeout u = .next (u.tickTask .proposal)) ∧
    (∀ u : State, TableOk u → (∀ id r, u.record? id = some r → r.remaining ≠ some 0) → u.tickTask .messages = u) ∧
    ∀ (u : State) (id : Nat) (r : Record), TableOk u → u.record? id = some r → r.remaining = some 0 →
      (∀ j x, u.record? j = some x → x.remaining = some 0 → j = id) →
        (r.state = .opened → exec (.expiryOfOpenRecord id) u = .next (u.tickTask .messages)) ∧
          (r.state = .sealed → exec (.expiryOfSealedRecord id) u = .next (u.tickTask .messages))

/-- The expiry of an OPEN record whose lifetime has reached 0 aborts it with cause EXPIRED: its CLAIMED and QUEUED
entries end EXPIRED and release their intake, its readers keep it and receive TRUNC, and DATA where they awaited it, its
source's context becomes LAPSED with the deposited length, and it retires if no reader holds it, its receipt admitted
below 28 notices and late otherwise. No other queue and no other fetch context changes. Otherwise nothing happens (log
entry 3). -/
def Obligations.OpenRecordExpires : Prop :=
  (∀ (s : State) (id : Nat), (∀ r, s.record? id = some r → r.state = .opened → r.remaining ≠ some 0) →
    exec (.expiryOfOpenRecord id) s = .next s) ∧
    ∀ (s : State) (id : Nat) (r : Record), s.record? id = some r → r.state = .opened → r.remaining = some 0 →
      (r.deliveries.map Entry.port).Nodup →
      let waits := fun e : Entry => e.stage = .claimed ∨ e.stage = .queued
      let aborted := { r with
          state := .aborted, abortCause := some .expired, remaining := none, expired := true }.entriesBy
        fun e => if e.stage = Stage.claimed ∨ e.stage = Stage.queued then .done .expired else e.stage
      ∃ t, exec (.expiryOfOpenRecord id) s = .next t ∧ s.onlyStore t ∧
        { s.port r.source with deposit := .lapsed id r.deposited }.keepsOwn (t.port r.source) ∧
        (∀ q, q ≠ r.source → (s.port q).keepsOwn (t.port q)) ∧ (∀ j, j ≠ id → t.record? j = s.record? j) ∧
        (¬ aborted.allDone → t.record? id = some aborted ∧ Retired s t [] noneTold ∧ t.freeList = s.freeList) ∧
        (aborted.allDone → Retired s t [(id, aborted)] noneTold ∧ t.freeList = s.freeList ++ r.cells) ∧
        (∀ e ∈ r.deliveries, waits e →
          (t.port e.port).intake = (s.port e.port).intake - 1 ∧
            (e.stage = .claimed → (t.port e.port).queue r.cls = (s.port e.port).queue r.cls) ∧
            (e.stage = .queued → (t.port e.port).queue r.cls = ((s.port e.port).queue r.cls).erase id)) ∧
        (∀ q, (∀ e ∈ r.deliveries, e.port = q → ¬ waits e) →
          (t.port q).express = (s.port q).express ∧ (t.port q).bulk = (s.port q).bulk ∧
            (t.port q).intake = (s.port q).intake) ∧
        (∀ q,
          (t.port q).queue r.cls.other = (s.port q).queue r.cls.other ∧
            (t.port q).fetch =
              (s.port q).fetch.map fun x => if x.id = id then { x with awaiting := false } else x) ∧
        ∀ q o w, (s.port q).fetch = some ⟨id, o, w⟩ → s.attached q = true →
          (t.port q).fetch = some ⟨id, o, false⟩ ∧ (t.port q).causes.trunc = true ∧
            (w = true → (t.port q).causes.data = true)

/-- The expiry of a SEALED record whose lifetime has reached 0 sets its expired flag: its QUEUED entries leave their
queues, end EXPIRED and release their intake, its readers keep it and are told nothing, and it retires if no reader
holds it, its receipt admitted below 28 notices and late otherwise. Otherwise nothing happens (log entry 3). -/
def Obligations.SealedRecordExpires : Prop :=
  (∀ (s : State) (id : Nat), (∀ r, s.record? id = some r → r.state = .sealed → r.remaining ≠ some 0) →
    exec (.expiryOfSealedRecord id) s = .next s) ∧
    ∀ (s : State) (id : Nat) (r : Record), s.record? id = some r → r.state = .sealed → r.remaining = some 0 →
      (r.deliveries.map Entry.port).Nodup →
      let ended := { r with remaining := none, expired := true }.entriesBy
        fun e => if e.stage = Stage.queued then .done .expired else e.stage
      ∃ t, exec (.expiryOfSealedRecord id) s = .next t ∧ s.onlyStore t ∧ (∀ j, j ≠ id → t.record? j = s.record? j) ∧
        (¬ ended.allDone → t.record? id = some ended ∧ Retired s t [] noneTold ∧ t.freeList = s.freeList) ∧
        (ended.allDone → Retired s t [(id, ended)] noneTold ∧ t.freeList = s.freeList ++ r.cells) ∧
        (∀ e ∈ r.deliveries, e.stage = .queued →
          (t.port e.port).intake = (s.port e.port).intake - 1 ∧
            (t.port e.port).queue r.cls = ((s.port e.port).queue r.cls).erase id) ∧
        (∀ q, (∀ e ∈ r.deliveries, e.port = q → e.stage ≠ .queued) →
          (t.port q).express = (s.port q).express ∧ (t.port q).bulk = (s.port q).bulk ∧
            (t.port q).intake = (s.port q).intake) ∧
        ∀ q, (s.port q).keepsOwn (t.port q) ∧ (t.port q).queue r.cls.other = (s.port q).queue r.cls.other ∧
          (t.port q).fetch = (s.port q).fetch ∧ (t.port q).causes.trunc = (s.port q).causes.trunc ∧ (t.port q).causes.data = (s.port q).causes.data

/-- A lease that runs and has reached 0 starts the teardown of its port with cause LEASE; a proposal whose ticks have
reached 0 ends, every required port is offered TIMED_OUT, and no setting changes. Otherwise nothing happens (log entry
3). -/
def Obligations.TimersRunOut : Prop :=
  (∀ (s : State) (p : Port), BooksOk s → s.attached p = true → (s.port p).leasePeriod ≠ 0 →
    (s.port p).leaseCounter = 0 →
      ∃ t, exec (.leaseExpiry p) s = .next t ∧ TeardownStarted s t p .lease ∧
        (t.port p).prstHigh = (s.port p).prstHigh ∧ (t.port p).frameError = (s.port p).frameError ∧
        (t.port p).txn = (s.port p).txn) ∧
    (∀ (s : State) (p : Port),
      s.attached p = false ∨ (s.port p).leasePeriod = 0 ∨ (s.port p).leaseCounter ≠ 0 →
        exec (.leaseExpiry p) s = .next s) ∧
    (∀ (s : State) (a : Proposal), s.slot = some a → a.remaining = 0 →
      exec .proposalTimeout s =
        .next { s with
          slot := none
          ports := PerPort.ofFn fun q =>
            if a.required.get q = true then
              (s.port q).toldAgreement ⟨.timedOut, a.setting, a.value, a.proposer, none⟩
            else s.port q }) ∧
    ∀ s : State, (∀ a, s.slot = some a → a.remaining ≠ 0) → exec .proposalTimeout s = .next s

/-- Teardown completion of a port in TEARDOWN: its items take the values of the column "Teardown completion" of R135,
the deliveries that wait for it end DETACHED, the records that this leaves with every entry DONE retire in ascending
order of id, every other record stays, those of the port charged to its reserves now charged to SHARED, and SHARED gains
the size and the charged cells of both reserves. Its peers that are ATTACHED are offered a PEER notice after the
receipts of what retired; of their causes, NOTICE and SPACE alone may be set, and their queues, intake, fetch contexts
and reserve sizes stay. On any other port nothing happens (log entry 8). -/
def Obligations.TeardownCompletes : Prop :=
  ∀ (s : State) (p : Port),
    ((s.port p).mode ≠ .teardown → exec (.teardownCompletion p) s = .next s) ∧
      ((s.port p).mode = .teardown →
        ∃ t, exec (.teardownCompletion p) s = .next t ∧ s.onlyStore t ∧
          t.port p = { s.port p with
            mode := .detached, causes := ⟨false, false, false, false, false⟩,
            mask := ⟨false, false, false, false, false⟩, frameError := false, bias := 4, leasePeriod := 0,
            leaseCounter := 0, deposit := .none, express := [], bulk := [], intake := 0, limit := 64, streak := 0,
            fetch := none, notices := [], backlog := [], resExpress := ⟨0, 0⟩, resBulk := ⟨0, 0⟩, wait := none } ∧
          (∀ id r, t.record? id = some r →
            (r.source = p → r.account ≠ some .reserve) ∧
              ∀ e ∈ r.deliveries, e.port = p → e.stage ≠ .claimed ∧ e.stage ≠ .queued) ∧
          (TableOk s →
            (∀ id r, s.record? id = some r → r.leavesAtCompletion p = false →
              t.record? id = some { r.purgedOf p with
                account := if r.source = p ∧ r.account = some .reserve then some .shared else r.account }) ∧
              (∀ id, s.record? id = none → t.record? id = none) ∧
              Retired s t (s.goneAtCompletion p) (fun q ns => if s.attached q then offeredPeer p false ns else ns) ∧
              t.freeList = s.freeList ++ (s.goneAtCompletion p).flatMap fun e => e.2.cells) ∧
          (PoolOk s →
            t.sharedSize = s.sharedSize + (s.port p).resExpress.size + (s.port p).resBulk.size ∧
              t.sharedCharged +
                  (((s.goneAtCompletion p).filter fun e =>
                    e.2.account == some .shared || e.2.account == some .reserve && e.2.source == p).flatMap
                      fun e => e.2.cells).length =
                s.sharedCharged + (s.port p).resExpress.charged + (s.port p).resBulk.charged) ∧
          ∀ q, q ≠ p →
            (s.port q).keepsOwn (t.port q) ∧ (t.port q).express = (s.port q).express ∧
              (t.port q).bulk = (s.port q).bulk ∧ (t.port q).intake = (s.port q).intake ∧
              (t.port q).fetch = (s.port q).fetch ∧
              (∀ c, ((t.port q).reserve c).size = ((s.port q).reserve c).size) ∧
              (t.port q).causes =
                { (s.port q).causes with
                  notice := (t.port q).causes.notice, space := (t.port q).causes.space } ∧
              (s.attached q = false → (t.port q).notices = (s.port q).notices) ∧
              (s.attached q = true →
                (t.port q).causes.notice = true ∧
                  ∃ rs : List Receipt,
                    (t.port q).notices = offeredPeer p false ((s.port q).notices ++ rs.map Notice.receipt)))
end

