-- ==== Sys2Proof/Laws/State.lean ====
section
/-! SUPPORT. What each update of the state leaves in each field: per-port values, ports, records, and the cause. -/

namespace Sys2Proof.Machine

open Sys2Proof

/-! ### Per-port values -/

@[simp] theorem PerPort.get_set_self {α : Type} (v : PerPort α) (p : Port) (x : α) : (v.set p x).get p = x := by
  cases p <;> rfl

theorem PerPort.get_set_of_ne {α : Type} (v : PerPort α) {p q : Port} (x : α) (h : q ≠ p) :
    (v.set p x).get q = v.get q := by
  cases p <;> cases q <;> first | rfl | exact absurd rfl h

theorem PerPort.get_set {α : Type} (v : PerPort α) (p q : Port) (x : α) :
    (v.set p x).get q = if q = p then x else v.get q := by
  by_cases h : q = p
  · subst h; simp
  · rw [PerPort.get_set_of_ne _ _ h, if_neg h]

@[simp] theorem PerPort.get_ofFn {α : Type} (f : Port → α) (p : Port) : (PerPort.ofFn f).get p = f p := by
  cases p <;> rfl

@[simp] theorem PerPort.get_map {α β : Type} (f : α → β) (v : PerPort α) (p : Port) :
    (v.map f).get p = f (v.get p) := by
  simp [PerPort.map]

/-- Two per-port values that agree at every port are equal. -/
theorem PerPort.ext_get {α : Type} {v w : PerPort α} (h : ∀ p, v.get p = w.get p) : v = w := by
  have h0 := h .p0
  have h1 := h .p1
  have h2 := h .p2
  have h3 := h .p3
  cases v; cases w
  simp_all [PerPort.get]

theorem mem_allPorts (p : Port) : p ∈ allPorts := by cases p <;> decide

theorem allPorts_nodup : allPorts.Nodup := by decide

@[simp] theorem noPorts_get (p : Port) : noPorts.get p = false := by simp [noPorts]

/-- A set is empty exactly when it names no port. -/
theorem PortSet.isEmpty_iff (v : PortSet) : v.isEmpty = true ↔ ∀ p, v.get p = false := by
  simp only [PortSet.isEmpty, allPorts, List.all_cons, List.all_nil, Bool.and_true, Bool.and_eq_true,
    Bool.not_eq_true']
  constructor
  · rintro ⟨h0, h1, h2, h3⟩ p
    cases p <;> assumption
  · intro h
    exact ⟨h .p0, h .p1, h .p2, h .p3⟩

/-! ### Ports -/

@[simp] theorem State.port_setPort_self (s : State) (p : Port) (x : PortState) : (s.setPort p x).port p = x := by
  simp [State.port, State.setPort]

theorem State.port_setPort_of_ne (s : State) {p q : Port} (x : PortState) (h : q ≠ p) :
    (s.setPort p x).port q = s.port q := by
  simp [State.port, State.setPort, PerPort.get_set_of_ne _ _ h]

theorem State.port_setPort (s : State) (p q : Port) (x : PortState) :
    (s.setPort p x).port q = if q = p then x else s.port q := by
  simp [State.port, State.setPort, PerPort.get_set]

@[simp] theorem State.port_modPort_self (s : State) (p : Port) (f : PortState → PortState) :
    (s.modPort p f).port p = f (s.port p) := by
  simp [State.modPort]

theorem State.port_modPort_of_ne (s : State) {p q : Port} (f : PortState → PortState) (h : q ≠ p) :
    (s.modPort p f).port q = s.port q := by
  simp [State.modPort, State.port_setPort_of_ne _ _ h]

theorem State.port_modPort (s : State) (p q : Port) (f : PortState → PortState) :
    (s.modPort p f).port q = if q = p then f (s.port p) else s.port q := by
  simp [State.modPort, State.port_setPort]

/-- The ports are all that a change of one port touches. -/
theorem State.setPort_eq (s : State) (p : Port) (x : PortState) :
    s.setPort p x = { s with ports := (s.setPort p x).ports } := rfl

theorem State.modPort_eq (s : State) (p : Port) (f : PortState → PortState) :
    s.modPort p f = { s with ports := (s.modPort p f).ports } := rfl

section
variable (s : State) (p : Port) (x : PortState) (f : PortState → PortState)

@[simp] theorem State.setPort_pending : (s.setPort p x).pending = s.pending := rfl
@[simp] theorem State.setPort_rstHigh : (s.setPort p x).rstHigh = s.rstHigh := rfl
@[simp] theorem State.setPort_records : (s.setPort p x).records = s.records := rfl
@[simp] theorem State.setPort_freeList : (s.setPort p x).freeList = s.freeList := rfl
@[simp] theorem State.setPort_mem : (s.setPort p x).mem = s.mem := rfl
@[simp] theorem State.setPort_sharedCharged : (s.setPort p x).sharedCharged = s.sharedCharged := rfl
@[simp] theorem State.setPort_tick : (s.setPort p x).tick = s.tick := rfl
@[simp] theorem State.setPort_guard : (s.setPort p x).guard = s.guard := rfl
@[simp] theorem State.setPort_deflife : (s.setPort p x).deflife = s.deflife := rfl
@[simp] theorem State.setPort_slot : (s.setPort p x).slot = s.slot := rfl
@[simp] theorem State.setPort_interval : (s.setPort p x).interval = s.interval := rfl
@[simp] theorem State.setPort_record? (id : Nat) : (s.setPort p x).record? id = s.record? id := rfl

@[simp] theorem State.modPort_pending : (s.modPort p f).pending = s.pending := rfl
@[simp] theorem State.modPort_rstHigh : (s.modPort p f).rstHigh = s.rstHigh := rfl
@[simp] theorem State.modPort_records : (s.modPort p f).records = s.records := rfl
@[simp] theorem State.modPort_freeList : (s.modPort p f).freeList = s.freeList := rfl
@[simp] theorem State.modPort_mem : (s.modPort p f).mem = s.mem := rfl
@[simp] theorem State.modPort_sharedCharged : (s.modPort p f).sharedCharged = s.sharedCharged := rfl
@[simp] theorem State.modPort_tick : (s.modPort p f).tick = s.tick := rfl
@[simp] theorem State.modPort_guard : (s.modPort p f).guard = s.guard := rfl
@[simp] theorem State.modPort_deflife : (s.modPort p f).deflife = s.deflife := rfl
@[simp] theorem State.modPort_slot : (s.modPort p f).slot = s.slot := rfl
@[simp] theorem State.modPort_interval : (s.modPort p f).interval = s.interval := rfl
@[simp] theorem State.modPort_record? (id : Nat) : (s.modPort p f).record? id = s.record? id := rfl

end

/-- Two changes of one port are one change. -/
@[simp] theorem State.modPort_modPort (s : State) (p : Port) (f g : PortState → PortState) :
    (s.modPort p f).modPort p g = s.modPort p fun q => g (f q) := by
  cases p <;> rfl

/-- A port that stays ATTACHED under a change is ATTACHED as before. -/
theorem State.attached_modPort (s : State) (p q : Port) (f : PortState → PortState)
    (h : ∀ x, (f x).mode = x.mode) : (s.modPort p f).attached q = s.attached q := by
  unfold State.attached
  rw [State.port_modPort]
  by_cases hq : q = p
  · subst hq; simp [h]
  · simp [hq]

/-! ### Records -/

@[simp] theorem lookupRecord_insert_self (id : Nat) (r : Record) (l : List (Nat × Record)) :
    lookupRecord id (insertRecord id r l) = some r := by
  induction l with
  | nil => simp [insertRecord, lookupRecord]
  | cons e rest ih =>
    obtain ⟨k, x⟩ := e
    unfold insertRecord
    split
    · simp [lookupRecord]
    · split
      · simp [lookupRecord]
      · rename_i h1 h2
        simp [lookupRecord, Ne.symm h2, ih]

theorem lookupRecord_insert_of_ne {id j : Nat} (r : Record) (l : List (Nat × Record)) (h : j ≠ id) :
    lookupRecord j (insertRecord id r l) = lookupRecord j l := by
  induction l with
  | nil => simp [insertRecord, lookupRecord, Ne.symm h]
  | cons e rest ih =>
    obtain ⟨k, x⟩ := e
    unfold insertRecord
    split
    · simp [lookupRecord, Ne.symm h]
    · split
      · rename_i h1 h2
        subst h2
        simp [lookupRecord, Ne.symm h]
      · simp [lookupRecord, ih]

/-- Removing one id takes its entries away. -/
theorem removeRecord_cons (id k : Nat) (x : Record) (rest : List (Nat × Record)) :
    removeRecord id ((k, x) :: rest) = if k = id then removeRecord id rest else (k, x) :: removeRecord id rest := by
  by_cases h : k = id <;> simp [removeRecord, h]

@[simp] theorem lookupRecord_remove_self (id : Nat) (l : List (Nat × Record)) :
    lookupRecord id (removeRecord id l) = none := by
  induction l with
  | nil => rfl
  | cons e rest ih =>
    obtain ⟨k, x⟩ := e
    rw [removeRecord_cons]
    by_cases h : k = id <;> simp [lookupRecord, h, ih]

theorem lookupRecord_remove_of_ne {id j : Nat} (l : List (Nat × Record)) (h : j ≠ id) :
    lookupRecord j (removeRecord id l) = lookupRecord j l := by
  induction l with
  | nil => rfl
  | cons e rest ih =>
    obtain ⟨k, x⟩ := e
    rw [removeRecord_cons]
    by_cases hk : k = id
    · subst hk
      simp [lookupRecord, Ne.symm h, ih]
    · simp [lookupRecord, hk, ih]

/-- A change of every record changes each record that is looked up. -/
@[simp] theorem lookupRecord_map (id : Nat) (f : Record → Record) (l : List (Nat × Record)) :
    lookupRecord id (l.map fun e => (e.1, f e.2)) = (lookupRecord id l).map f := by
  induction l with
  | nil => rfl
  | cons e rest ih =>
    obtain ⟨k, x⟩ := e
    by_cases h : k = id <;> simp [lookupRecord, h, ih]

/-- With ids that rise, a record is listed exactly when it is looked up. -/
theorem mem_iff_lookupRecord {l : List (Nat × Record)} (h : (l.map (·.1)).Pairwise (· < ·)) (id : Nat) (r : Record) :
    (id, r) ∈ l ↔ lookupRecord id l = some r := by
  induction l with
  | nil => simp [lookupRecord]
  | cons e rest ih =>
    obtain ⟨k, x⟩ := e
    simp only [List.map_cons, List.pairwise_cons, List.mem_map, forall_exists_index, and_imp,
      forall_apply_eq_imp_iff₂] at h
    have hrest := ih h.2
    by_cases hk : k = id
    · subst hk
      have hnot : (k, r) ∉ rest := fun hm => absurd (h.1 _ hm) (lt_irrefl _)
      simp [lookupRecord, hnot, eq_comm]
    · simp [lookupRecord, hk, hrest, Ne.symm hk]

/-- Inserting keeps the ids rising. -/
theorem insertRecord_pairwise (id : Nat) (r : Record) {l : List (Nat × Record)}
    (h : (l.map (·.1)).Pairwise (· < ·)) : ((insertRecord id r l).map (·.1)).Pairwise (· < ·) := by
  induction l with
  | nil => simp [insertRecord]
  | cons e rest ih =>
    obtain ⟨k, x⟩ := e
    unfold insertRecord
    split
    · rename_i h1
      simp only [List.map_cons, List.pairwise_cons] at h ⊢
      refine ⟨?_, h⟩
      intro a ha
      rcases List.mem_cons.1 ha with rfl | ha
      · exact h1
      · exact lt_trans h1 (h.1 a ha)
    · split
      · rename_i h1 h2
        subst h2
        simpa using h
      · rename_i h1 h2
        simp only [List.map_cons, List.pairwise_cons] at h ⊢
        refine ⟨?_, ih h.2⟩
        intro a ha
        have : a = id ∨ a ∈ rest.map (·.1) := by
          clear ih h
          induction rest with
          | nil => simp [insertRecord] at ha; exact Or.inl ha
          | cons e' rest' ih' =>
            obtain ⟨k', x'⟩ := e'
            unfold insertRecord at ha
            split at ha
            · simpa using ha
            · split at ha
              · rename_i h3; subst h3; right; simpa using ha
              · simp only [List.map_cons, List.mem_cons] at ha ⊢
                rcases ha with rfl | ha
                · exact Or.inr (Or.inl rfl)
                · rcases ih' ha with h' | h'
                  · exact Or.inl h'
                  · exact Or.inr (Or.inr h')
        rcases this with rfl | ha'
        · omega
        · exact h.1 a ha'

section
variable (s : State) (id : Nat) (r : Record) (f : Record → Record)

@[simp] theorem State.putRecord_pending : (s.putRecord id r).pending = s.pending := rfl
@[simp] theorem State.putRecord_rstHigh : (s.putRecord id r).rstHigh = s.rstHigh := rfl
@[simp] theorem State.putRecord_ports : (s.putRecord id r).ports = s.ports := rfl
@[simp] theorem State.putRecord_port (p : Port) : (s.putRecord id r).port p = s.port p := rfl
@[simp] theorem State.putRecord_attached (p : Port) : (s.putRecord id r).attached p = s.attached p := rfl
@[simp] theorem State.putRecord_freeList : (s.putRecord id r).freeList = s.freeList := rfl
@[simp] theorem State.putRecord_mem : (s.putRecord id r).mem = s.mem := rfl
@[simp] theorem State.putRecord_sharedCharged : (s.putRecord id r).sharedCharged = s.sharedCharged := rfl
@[simp] theorem State.putRecord_tick : (s.putRecord id r).tick = s.tick := rfl
@[simp] theorem State.putRecord_guard : (s.putRecord id r).guard = s.guard := rfl
@[simp] theorem State.putRecord_deflife : (s.putRecord id r).deflife = s.deflife := rfl
@[simp] theorem State.putRecord_slot : (s.putRecord id r).slot = s.slot := rfl
@[simp] theorem State.putRecord_interval : (s.putRecord id r).interval = s.interval := rfl
@[simp] theorem State.putRecord_record?_self : (s.putRecord id r).record? id = some r := by
  simp [State.putRecord, State.record?]

theorem State.putRecord_record?_of_ne {j : Nat} (h : j ≠ id) : (s.putRecord id r).record? j = s.record? j := by
  simp [State.putRecord, State.record?, lookupRecord_insert_of_ne _ _ h]

@[simp] theorem State.freeRecord_pending : (s.freeRecord id).pending = s.pending := rfl
@[simp] theorem State.freeRecord_rstHigh : (s.freeRecord id).rstHigh = s.rstHigh := rfl
@[simp] theorem State.freeRecord_ports : (s.freeRecord id).ports = s.ports := rfl
@[simp] theorem State.freeRecord_port (p : Port) : (s.freeRecord id).port p = s.port p := rfl
@[simp] theorem State.freeRecord_attached (p : Port) : (s.freeRecord id).attached p = s.attached p := rfl
@[simp] theorem State.freeRecord_freeList : (s.freeRecord id).freeList = s.freeList := rfl
@[simp] theorem State.freeRecord_mem : (s.freeRecord id).mem = s.mem := rfl
@[simp] theorem State.freeRecord_sharedCharged : (s.freeRecord id).sharedCharged = s.sharedCharged := rfl
@[simp] theorem State.freeRecord_tick : (s.freeRecord id).tick = s.tick := rfl
@[simp] theorem State.freeRecord_guard : (s.freeRecord id).guard = s.guard := rfl
@[simp] theorem State.freeRecord_deflife : (s.freeRecord id).deflife = s.deflife := rfl
@[simp] theorem State.freeRecord_slot : (s.freeRecord id).slot = s.slot := rfl
@[simp] theorem State.freeRecord_interval : (s.freeRecord id).interval = s.interval := rfl
@[simp] theorem State.freeRecord_record?_self : (s.freeRecord id).record? id = none := by
  simp [State.freeRecord, State.record?]

theorem State.freeRecord_record?_of_ne {j : Nat} (h : j ≠ id) : (s.freeRecord id).record? j = s.record? j := by
  simp [State.freeRecord, State.record?, lookupRecord_remove_of_ne _ h]

@[simp] theorem State.mapRecords_pending : (s.mapRecords f).pending = s.pending := rfl
@[simp] theorem State.mapRecords_rstHigh : (s.mapRecords f).rstHigh = s.rstHigh := rfl
@[simp] theorem State.mapRecords_ports : (s.mapRecords f).ports = s.ports := rfl
@[simp] theorem State.mapRecords_port (p : Port) : (s.mapRecords f).port p = s.port p := rfl
@[simp] theorem State.mapRecords_attached (p : Port) : (s.mapRecords f).attached p = s.attached p := rfl
@[simp] theorem State.mapRecords_freeList : (s.mapRecords f).freeList = s.freeList := rfl
@[simp] theorem State.mapRecords_mem : (s.mapRecords f).mem = s.mem := rfl
@[simp] theorem State.mapRecords_sharedCharged : (s.mapRecords f).sharedCharged = s.sharedCharged := rfl
@[simp] theorem State.mapRecords_tick : (s.mapRecords f).tick = s.tick := rfl
@[simp] theorem State.mapRecords_guard : (s.mapRecords f).guard = s.guard := rfl
@[simp] theorem State.mapRecords_deflife : (s.mapRecords f).deflife = s.deflife := rfl
@[simp] theorem State.mapRecords_slot : (s.mapRecords f).slot = s.slot := rfl
@[simp] theorem State.mapRecords_interval : (s.mapRecords f).interval = s.interval := rfl
@[simp] theorem State.mapRecords_record? : (s.mapRecords f).record? id = (s.record? id).map f := by
  simp [State.mapRecords, State.record?]

/-- A change of one record that is not FREE. -/
theorem State.modRecord_of_some {r : Record} (h : s.record? id = some r) : s.modRecord id f = s.putRecord id (f r) := by
  simp [State.modRecord, h]

/-- A FREE record is not changed. -/
theorem State.modRecord_of_none (h : s.record? id = none) : s.modRecord id f = s := by
  simp [State.modRecord, h]

end

/-! ### Causes -/

/-- Offering a cause changes the causes of that port, and only while it is ATTACHED (R168). -/
theorem State.raise_eq (s : State) (p : Port) (c : Cause) :
    s.raise p c = s.modPort p fun q => if q.mode = .attached then { q with causes := q.causes.add c } else q := by
  unfold State.raise State.attached State.modPort
  by_cases h : (s.port p).mode = .attached
  · simp [h]
  · have hp : s.setPort p (s.port p) = s := by cases p <;> rfl
    simp [h, hp]

end Sys2Proof.Machine
end

