-- ==== Sys2Proof/Laws/Frames.lean ====
section
/-! SUPPORT. What the shared operations of the blocks leave alone. `Within s t` says once what they can change; each
operation has one lemma. -/

namespace Sys2Proof.Machine

open Sys2Proof

/-- `t` differs from `s` at most where the Cell Pool Manager, the Message Table, the Delivery Queue Unit and the Notice
Unit may write: records, cells and accounts, queues, contexts of readers, notices, backlogs, waits and causes. Causes
change at ATTACHED ports only (R168). -/
structure Within (s t : State) : Prop where
  part : t =
    { s with ports := t.ports, records := t.records, freeList := t.freeList, sharedCharged := t.sharedCharged }
  port : ∀ q, t.port q =
    { s.port q with
      causes := (t.port q).causes, express := (t.port q).express, bulk := (t.port q).bulk,
      intake := (t.port q).intake, fetch := (t.port q).fetch, notices := (t.port q).notices,
      backlog := (t.port q).backlog, resExpress := (t.port q).resExpress, resBulk := (t.port q).resBulk,
      wait := (t.port q).wait }
  causes : ∀ q, s.attached q = false → (t.port q).causes = (s.port q).causes

/-- The items of a port that `Within` lets change, all taken from `y`. -/
def PortState.inner (x y : PortState) : PortState :=
  { x with
    causes := y.causes, express := y.express, bulk := y.bulk, intake := y.intake, fetch := y.fetch,
    notices := y.notices, backlog := y.backlog, resExpress := y.resExpress, resBulk := y.resBulk, wait := y.wait }

theorem Within.refl (s : State) : Within s s := ⟨rfl, fun _ => rfl, fun _ _ => rfl⟩

section
variable {s t : State} (h : Within s t)
include h

theorem Within.pending : t.pending = s.pending := by rw [h.part]
theorem Within.rstHigh : t.rstHigh = s.rstHigh := by rw [h.part]
theorem Within.mem : t.mem = s.mem := by rw [h.part]
theorem Within.tick : t.tick = s.tick := by rw [h.part]
theorem Within.guard : t.guard = s.guard := by rw [h.part]
theorem Within.deflife : t.deflife = s.deflife := by rw [h.part]
theorem Within.slot : t.slot = s.slot := by rw [h.part]
theorem Within.interval : t.interval = s.interval := by rw [h.part]
theorem Within.selHigh (q : Port) : (t.port q).selHigh = (s.port q).selHigh := by rw [h.port]
theorem Within.prstHigh (q : Port) : (t.port q).prstHigh = (s.port q).prstHigh := by rw [h.port]
theorem Within.txn (q : Port) : (t.port q).txn = (s.port q).txn := by rw [h.port]
theorem Within.mode (q : Port) : (t.port q).mode = (s.port q).mode := by rw [h.port]
theorem Within.attached (q : Port) : t.attached q = s.attached q := by simp only [State.attached, h.mode]
theorem Within.lastCause (q : Port) : (t.port q).lastCause = (s.port q).lastCause := by rw [h.port]
theorem Within.mask (q : Port) : (t.port q).mask = (s.port q).mask := by rw [h.port]
theorem Within.frameError (q : Port) : (t.port q).frameError = (s.port q).frameError := by rw [h.port]
theorem Within.bias (q : Port) : (t.port q).bias = (s.port q).bias := by rw [h.port]
theorem Within.leasePeriod (q : Port) : (t.port q).leasePeriod = (s.port q).leasePeriod := by rw [h.port]
theorem Within.leaseCounter (q : Port) : (t.port q).leaseCounter = (s.port q).leaseCounter := by rw [h.port]
theorem Within.deposit (q : Port) : (t.port q).deposit = (s.port q).deposit := by rw [h.port]
theorem Within.limit (q : Port) : (t.port q).limit = (s.port q).limit := by rw [h.port]
theorem Within.streak (q : Port) : (t.port q).streak = (s.port q).streak := by rw [h.port]
theorem Within.serial (q : Port) : (t.port q).serial = (s.port q).serial := by rw [h.port]

end

theorem Within.trans {s t u : State} (h : Within s t) (k : Within t u) : Within s u where
  part := by rw [k.part, h.part]
  port q := by rw [k.port, h.port]
  causes q hq := by rw [k.causes q (by rw [h.attached]; exact hq), h.causes q hq]

/-- A list of operations, each of which stays within, stays within. -/
theorem Within.foldl {α : Type} {f : State → α → State} (hf : ∀ s a, Within s (f s a)) (l : List α) (s : State) :
    Within s (l.foldl f s) := by
  induction l generalizing s with
  | nil => exact Within.refl s
  | cons a l ih => exact (hf s a).trans (ih (f s a))

/-- A change of inner items of one port that leaves its causes. -/
theorem Within.modPort (s : State) (p : Port) (f : PortState → PortState) (hf : ∀ x, f x = x.inner (f x))
    (hc : ∀ x, (f x).causes = x.causes) : Within s (s.modPort p f) where
  part := rfl
  port q := by
    rw [State.port_modPort]
    by_cases hq : q = p
    · subst hq; rw [if_pos rfl]; exact hf _
    · rw [if_neg hq]
  causes q _ := by
    rw [State.port_modPort]
    by_cases hq : q = p
    · subst hq; rw [if_pos rfl]; exact hc _
    · rw [if_neg hq]

theorem within_raise (s : State) (p : Port) (c : Cause) : Within s (s.raise p c) := by
  rw [State.raise_eq]
  refine ⟨rfl, fun q => ?_, fun q hq => ?_⟩ <;> rw [State.port_modPort] <;> by_cases h : q = p
  · subst h; rw [if_pos rfl]; split <;> rfl
  · rw [if_neg h]
  · subst h
    have : (s.port q).mode ≠ .attached := by simpa [State.attached] using hq
    rw [if_pos rfl, if_neg this]
  · rw [if_neg h]

/-! ### Records and cells -/

theorem within_putRecord (s : State) (id : Nat) (r : Record) : Within s (s.putRecord id r) :=
  ⟨rfl, fun _ => rfl, fun _ _ => rfl⟩

theorem within_freeRecord (s : State) (id : Nat) : Within s (s.freeRecord id) := ⟨rfl, fun _ => rfl, fun _ _ => rfl⟩

theorem within_mapRecords (s : State) (f : Record → Record) : Within s (s.mapRecords f) :=
  ⟨rfl, fun _ => rfl, fun _ _ => rfl⟩

theorem within_modRecord (s : State) (id : Nat) (f : Record → Record) : Within s (s.modRecord id f) := by
  unfold State.modRecord
  split
  · exact Within.refl s
  · exact within_putRecord _ _ _

/-! ### The Cell Pool Manager -/

theorem within_addCharge (s : State) (p : Port) (c : Cls) (a : Charge) (n : Nat) : Within s (s.addCharge p c a n) := by
  unfold State.addCharge
  cases a
  · exact Within.modPort _ _ _ (by intro x; cases c <;> rfl) (by intro x; cases c <;> rfl)
  · exact ⟨rfl, fun _ => rfl, fun _ _ => rfl⟩

theorem within_subCharge (s : State) (p : Port) (c : Cls) (a : Charge) (n : Nat) : Within s (s.subCharge p c a n) := by
  unfold State.subCharge
  cases a
  · exact Within.modPort _ _ _ (by intro x; cases c <;> rfl) (by intro x; cases c <;> rfl)
  · exact ⟨rfl, fun _ => rfl, fun _ _ => rfl⟩

theorem within_returnCells (s : State) (p : Port) (c : Cls) (a : Option Charge) (l : List Nat) :
    Within s (s.returnCells p c a l) := by
  have h : Within s { s with freeList := s.freeList ++ l } := ⟨rfl, fun _ => rfl, fun _ _ => rfl⟩
  cases a with
  | none => exact h
  | some a => exact h.trans (within_subCharge _ p c a l.length)

theorem within_waitCheckPort (s : State) (p : Port) : Within s (s.waitCheckPort p) := by
  unfold State.waitCheckPort
  split
  · exact Within.refl s
  · split
    · exact (Within.modPort _ _ _ (by intro x; rfl) (by intro x; rfl)).trans (within_raise _ _ _)
    · exact Within.refl s

theorem within_waitCheck (s : State) : Within s s.waitCheck := Within.foldl within_waitCheckPort _ s

theorem within_waitCheckIfFreed (s before : State) : Within s (s.waitCheckIfFreed before) := by
  unfold State.waitCheckIfFreed
  split
  · exact within_waitCheck s
  · exact Within.refl s

theorem within_dissolve (s : State) (p : Port) : Within s (s.dissolve p) := by
  unfold State.dissolve
  dsimp only
  refine Within.trans (Within.trans ?_ (within_mapRecords _ _)) (Within.modPort _ _ _ (by intro x; rfl) (by intro x; rfl))
  exact ⟨rfl, fun _ => rfl, fun _ _ => rfl⟩

theorem within_claim (s : State) (m : PortSet) : Within s (s.claim m) := by
  unfold State.claim
  exact Within.foldl (fun _ _ => Within.modPort _ _ _ (by intro x; rfl) (by intro x; rfl)) _ s

theorem within_chargeCells (s : State) (p : Port) (c : Cls) (a : Option Charge) (n : Nat) :
    Within s (s.chargeCells p c a n) := by
  cases a with
  | none => exact Within.refl s
  | some a =>
    have h : Within s { s with freeList := s.freeList.drop n } := ⟨rfl, fun _ => rfl, fun _ _ => rfl⟩
    exact h.trans (within_addCharge _ p c a n)

/-! ### The Notice Unit -/

theorem within_appendNotice (s : State) (p : Port) (n : Notice) : Within s (s.appendNotice p n) := by
  unfold State.appendNotice
  exact (Within.modPort _ _ _ (by intro x; rfl) (by intro x; rfl)).trans (within_raise _ _ _)

theorem within_offerPeer (s : State) (r : Port) (b : Bool) (p : Port) : Within s (s.offerPeer r b p) := by
  unfold State.offerPeer
  split
  · split
    · exact (Within.modPort _ _ _ (by intro x; rfl) (by intro x; rfl)).trans (within_raise _ _ _)
    · exact within_appendNotice _ _ _
  · exact Within.refl s

theorem within_offerPeers (s : State) (r : Port) (b : Bool) : Within s (s.offerPeers r b) :=
  Within.foldl (fun t p => within_offerPeer t r b p) _ s

theorem within_offerAgreement (s : State) (a : AgreementInfo) (p : Port) : Within s (s.offerAgreement a p) := by
  unfold State.offerAgreement
  split
  · split
    · exact (Within.modPort _ _ _ (by intro x; rfl) (by intro x; rfl)).trans (within_raise _ _ _)
    · exact within_appendNotice _ _ _
  · exact Within.refl s

theorem within_offerAgreements (s : State) (a : AgreementInfo) (m : PortSet) : Within s (s.offerAgreements a m) :=
  Within.foldl (fun t p => within_offerAgreement t a p) _ s

theorem within_postReceipt (s : State) (p : Port) (id : Nat) (r : Record) : Within s (s.postReceipt p id r) := by
  unfold State.postReceipt
  exact (within_freeRecord s id).trans (within_appendNotice _ _ _)

theorem within_offerReceipt (s : State) (id : Nat) (r : Record) : Within s (s.offerReceipt id r) := by
  unfold State.offerReceipt
  split
  · exact within_postReceipt _ _ _ _
  · exact (within_putRecord _ _ _).trans (Within.modPort _ _ _ (by intro x; rfl) (by intro x; rfl))

theorem within_postingCheck (s : State) (p : Port) : Within s (s.postingCheck p) := by
  unfold State.postingCheck
  split
  · exact Within.refl s
  · split
    · split
      · exact Within.refl s
      · exact (Within.modPort _ _ _ (by intro x; rfl) (by intro x; rfl)).trans (within_postReceipt _ _ _ _)
    · exact Within.refl s

theorem within_discardBacklog (s : State) (p : Port) : Within s (s.discardBacklog p) := by
  unfold State.discardBacklog
  exact (Within.foldl within_freeRecord _ s).trans (Within.modPort _ _ _ (by intro x; rfl) (by intro x; rfl))

theorem within_removeNotice (s : State) (p : Port) : Within s (s.removeNotice p) := by
  unfold State.removeNotice
  exact (Within.modPort _ _ _ (by intro x; rfl) (by intro x; rfl)).trans (within_postingCheck _ _)

/-! ### The Message Table and the Delivery Queue Unit -/

theorem PortState.dropDelivery_inner (x : PortState) (id : Nat) (c : Cls) (st : Stage) :
    x.dropDelivery id c st = x.inner (x.dropDelivery id c st) := by
  unfold PortState.dropDelivery
  split <;> cases c <;> rfl

theorem PortState.dropDelivery_causes (x : PortState) (id : Nat) (c : Cls) (st : Stage) :
    (x.dropDelivery id c st).causes = x.causes := by
  unfold PortState.dropDelivery
  split <;> cases c <;> rfl

theorem within_endDeliveries (s : State) (id : Nat) (f : Entry → Option Fate) : Within s (s.endDeliveries id f) := by
  unfold State.endDeliveries
  split
  · exact Within.refl s
  · exact (within_putRecord _ _ _).trans (Within.foldl (fun _ _ => Within.modPort _ _ _
      (fun _ => PortState.dropDelivery_inner _ _ _ _) (fun _ => PortState.dropDelivery_causes _ _ _ _)) _ _)

theorem within_wakeReader (s : State) (id : Nat) (p : Port) : Within s (s.wakeReader id p) := by
  unfold State.wakeReader
  split
  · exact Within.refl s
  · split
    · exact (Within.modPort _ _ _ (by intro x; rfl) (by intro x; rfl)).trans (within_raise _ _ _)
    · exact Within.refl s

theorem within_wakeReaders (s : State) (id : Nat) : Within s (s.wakeReaders id) :=
  Within.foldl (fun t p => within_wakeReader t id p) _ s

theorem within_cutReader (s : State) (id : Nat) (p : Port) : Within s (s.cutReader id p) := by
  unfold State.cutReader
  split
  · exact Within.refl s
  · split
    · exact within_raise _ _ _
    · exact Within.refl s

theorem within_cutReaders (s : State) (id : Nat) : Within s (s.cutReaders id) :=
  Within.foldl (fun t p => within_cutReader t id p) _ s

theorem within_publishAt (s : State) (id : Nat) (c : Cls) (e : Entry) : Within s (s.publishAt id c e) := by
  unfold State.publishAt
  split
  · exact (Within.modPort _ _ _ (by intro x; cases c <;> rfl) (by intro x; cases c <;> rfl)).trans
      (within_raise _ _ _)
  · exact Within.modPort _ _ _ (fun _ => PortState.dropDelivery_inner _ _ _ _)
      (fun _ => PortState.dropDelivery_causes _ _ _ _)

theorem within_publish (s : State) (id : Nat) : Within s (s.publish id) := by
  unfold State.publish
  split
  · exact Within.refl s
  · exact (within_putRecord _ _ _).trans (Within.foldl (fun t e => within_publishAt t id _ e) _ _)

theorem within_abort (s : State) (id : Nat) (k : AbortCause) : Within s (s.abort id k) := by
  unfold State.abort
  exact (((within_endDeliveries _ _ _).trans (within_modRecord _ _ _)).trans (within_wakeReaders _ _)).trans
    (within_cutReaders _ _)

theorem within_retireOne (s : State) (id : Nat) : Within s (s.retireOne id) := by
  unfold State.retireOne
  split
  · exact Within.refl s
  · split
    · dsimp only
      split
      · exact (within_returnCells _ _ _ _ _).trans (within_offerReceipt _ _ _)
      · exact (within_returnCells _ _ _ _ _).trans (within_freeRecord _ _)
    · exact Within.refl s

theorem within_retireAll (s : State) (ids : List Nat) : Within s (s.retireAll ids) :=
  Within.foldl within_retireOne ids s

theorem within_retire (s : State) (ids : List Nat) : Within s (s.retire ids) :=
  (within_retireAll s ids).trans (within_waitCheckIfFreed _ _)

theorem within_expireSealed (s : State) (id : Nat) : Within s (s.expireSealed id) := by
  unfold State.expireSealed
  exact (within_endDeliveries _ _ _).trans (within_modRecord _ _ _)

theorem within_purgeDeliveries (s : State) (p : Port) : Within s (s.purgeDeliveries p) := by
  unfold State.purgeDeliveries
  exact (within_mapRecords _ _).trans (Within.modPort _ _ _ (by intro x; rfl) (by intro x; rfl))

end Sys2Proof.Machine
end

