-- ==== Sys2Proof/Laws/Framing.lean ====
section
/-! SUPPORT. What the framing of a transaction can do: which row a byte is, and when a row acts. -/

namespace Sys2Proof.Machine

open Sys2Proof

variable {s t : State} {p : Port} {b code : Byte} {args : List Byte} {row : Instr} {k : StepOutcome}

/-- A row of bytes outside a transaction leaves the state as it is. -/
theorem onRow_outside (h : (s.port p).txn.phase.inTransaction = false) : onRow s p b row k = .next s := by
  unfold onRow onByte
  cases hp : (s.port p).txn.phase <;> simp [hp, Phase.inTransaction] at h ⊢

/-- Within a transaction a row acts where its byte is its own, and is refused elsewhere. -/
theorem onRow_inside (h : (s.port p).txn.phase.inTransaction = true) :
    onRow s p b row k = if s.byteRow p b = some row then k else .refused .otherEvent := by
  unfold onRow onByte
  cases hp : (s.port p).txn.phase <;> simp [hp, Phase.inTransaction] at h ⊢

/-- All that a row of bytes can do where it answers next: nothing outside a transaction, and its own act where the byte
is its own. -/
theorem onRow_next (h : onRow s p b row k = .next t) :
    (s.port p).txn.phase.inTransaction = false ∧ t = s ∨
      (s.port p).txn.phase.inTransaction = true ∧ s.byteRow p b = some row ∧ k = .next t := by
  cases hp : (s.port p).txn.phase.inTransaction
  · rw [onRow_outside hp] at h
    cases h
    exact .inl ⟨rfl, rfl⟩
  · rw [onRow_inside hp] at h
    split at h
    · exact .inr ⟨rfl, ‹_›, h⟩
    · cases h

theorem byteRow_command (h : (s.port p).txn.phase = .command) : s.byteRow p b = some (commandRow p b) := by
  simp [State.byteRow, h]

theorem byteRow_argument (h : (s.port p).txn.phase = .argument) (hc : (s.port p).txn.collected = code :: args) :
    s.byteRow p b =
      if args.length + 1 < (argCount code).getD 0 then some (.argumentByteReceived p b)
      else if argCount code = some (args.length + 1) then lastArgumentRow p code args b
      else none := by
  simp [State.byteRow, h, hc]

theorem byteRow_data (h : (s.port p).txn.phase = .data) : s.byteRow p b = some (.putDataByte p b) := by
  simp [State.byteRow, h]

/-- A command without argument bytes is taken at its command byte. -/
theorem takeCommandByte_command {f : State → Except Fault Taken} (h : (s.port p).txn.phase = .command)
    (hr : commandRow p code = row) :
    takeCommandByte s p code row f = finishTake p (s.port p).txn.summary (f s) := by
  rw [takeCommandByte, onRow_inside (by simp [h, Phase.inTransaction]), byteRow_command h, if_pos (by rw [hr])]

/-- A command with argument bytes is taken at its last one, and is given all of them. -/
theorem takeArguments_last {f : List Byte → StepOutcome} (h : (s.port p).txn.phase = .argument)
    (hc : (s.port p).txn.collected = code :: args) (hn : argCount code = some (args.length + 1))
    (hr : lastArgumentRow p code args b = some row) : takeArguments s p b row f = f (args ++ [b]) := by
  have hb : s.byteRow p b = some row := by rw [byteRow_argument h hc]; simp [hn, hr]
  rw [takeArguments, onRow_inside (by simp [h, Phase.inTransaction]), if_pos hb, hc, List.tail_cons]

end Sys2Proof.Machine
end

