-- ==== Sys2Proof/Laws/Memory.lean ====
section
/-! SUPPORT. The laws of the payload store: read after write, and the canonical form. -/

namespace Sys2Proof.Machine

open Sys2Proof

/-- A byte written is the byte read. -/
@[simp] theorem Memory.read_write_self (a : Nat) (b : Byte) (m : Memory) :
    Memory.read a (Memory.write a b m) = some b := by
  induction m with
  | nil => simp [Memory.write, Memory.read]
  | cons e rest ih =>
    obtain ⟨k, x⟩ := e
    unfold Memory.write
    split
    · simp [Memory.read]
    · split
      · simp [Memory.read]
      · rename_i h1 h2
        simp [Memory.read, Ne.symm h2, ih]

/-- A write leaves every other address alone. -/
theorem Memory.read_write_of_ne {a c : Nat} (b : Byte) (m : Memory) (h : c ≠ a) :
    Memory.read c (Memory.write a b m) = Memory.read c m := by
  induction m with
  | nil => simp [Memory.write, Memory.read, Ne.symm h]
  | cons e rest ih =>
    obtain ⟨k, x⟩ := e
    unfold Memory.write
    split
    · simp [Memory.read, Ne.symm h]
    · split
      · rename_i h1 h2
        subst h2
        simp [Memory.read, Ne.symm h]
      · simp [Memory.read, ih]

/-- A write above the bound of a canonical store keeps its form. -/
theorem Memory.wfFrom_write {lo : Option Nat} {m : Memory} (hm : Memory.wfFrom lo m = true) {a : Nat} (b : Byte)
    (ha : a < Config.cellCount * Config.cellBytes) (hlo : Memory.above lo a = true) :
    Memory.wfFrom lo (Memory.write a b m) = true := by
  induction m generalizing lo with
  | nil => simp only [Memory.write, Memory.wfFrom, hlo, Bool.and_true, decide_eq_true_eq]; exact ha
  | cons e rest ih =>
    obtain ⟨k, x⟩ := e
    simp only [Memory.wfFrom, Bool.and_eq_true, decide_eq_true_eq] at hm
    obtain ⟨⟨hk, hl⟩, hrest⟩ := hm
    unfold Memory.write
    split
    · rename_i h1
      simp only [Memory.wfFrom, Memory.above, Bool.and_eq_true, decide_eq_true_eq]
      exact ⟨⟨ha, hlo⟩, ⟨hk, h1⟩, hrest⟩
    · split
      · rename_i h1 h2
        subst h2
        simp only [Memory.wfFrom, Bool.and_eq_true, decide_eq_true_eq]
        exact ⟨⟨ha, hlo⟩, hrest⟩
      · rename_i h1 h2
        simp only [Memory.wfFrom, Bool.and_eq_true, decide_eq_true_eq]
        exact ⟨⟨hk, hl⟩, ih hrest (by simp [Memory.above]; omega)⟩

/-- A write inside the pool keeps the canonical form. -/
theorem Memory.wf_write {m : Memory} (hm : Memory.wf m = true) {a : Nat} (b : Byte)
    (ha : a < Config.cellCount * Config.cellBytes) : Memory.wf (Memory.write a b m) = true :=
  Memory.wfFrom_write hm b ha rfl

/-- A payload address lies inside the pool (R2). -/
theorem payloadAddr_lt {cells : List Nat} {k a : Nat} (h : payloadAddr cells k = some a) :
    a < Config.cellCount * Config.cellBytes := by
  unfold payloadAddr at h
  split at h
  · exact nomatch h
  · rename_i c _
    split at h
    · rename_i hc
      cases h
      have hmod : k % Config.cellBytes < Config.cellBytes := Nat.mod_lt _ (by decide)
      simp only [Config.cellCount, Config.cellBytes] at *
      omega
    · exact nomatch h

/-- The store after reset is in its canonical form. -/
theorem Memory.wf_reset : Memory.wf State.reset.mem = true := rfl

end Sys2Proof.Machine
end

