-- ==== Sys2Proof/Laws/Ops.lean ====
section
/-! SUPPORT. What the shared operations do, one lemma for each: first as a change of one port, then over all ports. -/

namespace Sys2Proof.Machine

open Sys2Proof

/-! ### A change of several ports -/

/-- Changes of ports touch nothing but the ports. -/
theorem foldl_modPort_part {α : Type} (k : α → Port) (g : α → PortState → PortState) (l : List α) (s : State) :
    l.foldl (fun t a => t.modPort (k a) (g a)) s =
      { s with ports := (l.foldl (fun t a => t.modPort (k a) (g a)) s).ports } := by
  induction l generalizing s with
  | nil => rfl
  | cons a l ih => rw [List.foldl_cons, ih]; rfl

/-- Changes of different ports: each port sees its own change alone. -/
theorem foldl_modPort_port {α : Type} (k : α → Port) (g : α → PortState → PortState) (l : List α)
    (hl : (l.map k).Nodup) (s : State) (q : Port) :
    (l.foldl (fun t a => t.modPort (k a) (g a)) s).port q =
      match l.find? (fun a => k a == q) with
      | some a => g a (s.port q)
      | none => s.port q := by
  induction l generalizing s with
  | nil => rfl
  | cons a l ih =>
    rw [List.map_cons, List.nodup_cons] at hl
    rw [List.foldl_cons, ih hl.2, List.find?_cons]
    by_cases h : k a = q
    · subst h
      have hnone : l.find? (fun b => k b == k a) = none := by
        rw [List.find?_eq_none]
        intro b hb hba
        exact hl.1 (by rw [← eq_of_beq hba]; exact List.mem_map_of_mem hb)
      simp [hnone]
    · have hb : (k a == q) = false := by simpa using h
      rw [hb, State.port_modPort_of_ne _ _ (Ne.symm h)]

/-- The same over ports. -/
theorem foldl_ports_port (g : Port → PortState → PortState) (l : List Port) (hl : l.Nodup) (s : State) (q : Port) :
    (l.foldl (fun t a => t.modPort a (g a)) s).port q = if q ∈ l then g q (s.port q) else s.port q := by
  have h := foldl_modPort_port id g l (by simpa using hl) s q
  simp only [id] at h
  rw [h]
  by_cases hq : q ∈ l
  · rw [if_pos hq]
    have : l.find? (fun a => a == q) = some q := by
      rw [List.find?_eq_some_iff_getElem]
      obtain ⟨i, hi, rfl⟩ := List.getElem_of_mem hq
      refine ⟨by simp, i, hi, rfl, fun j hj => ?_⟩
      have := (List.nodup_iff_injective_getElem.1 hl)
      simp only [Bool.not_eq_true', beq_eq_false_iff_ne, ne_eq]
      intro heq
      have := this (a₁ := ⟨j, by omega⟩) (a₂ := ⟨i, hi⟩) heq
      simp at this
      omega
    rw [this]
  · rw [if_neg hq]
    have : l.find? (fun a => a == q) = none := by
      rw [List.find?_eq_none]
      intro x hx hxq
      exact hq (eq_of_beq hxq ▸ hx)
    rw [this]

theorem nodup_filter_ports (c : Port → Bool) : (allPorts.filter c).Nodup := allPorts_nodup.filter _

theorem mem_filter_ports (c : Port → Bool) (p : Port) : p ∈ allPorts.filter c ↔ c p = true := by
  simp [mem_allPorts]

/-! ### Causes and readers -/

/-- The port with a cause offered to it (R168). -/
def PortState.raised (c : Cause) (x : PortState) : PortState :=
  if x.mode = .attached then { x with causes := x.causes.add c } else x

theorem raise_eq (s : State) (p : Port) (c : Cause) : s.raise p c = s.modPort p (PortState.raised c) :=
  State.raise_eq s p c

/-- A reader of message `id` that awaits data is told that the message moved (R81). -/
def PortState.woken (id : Nat) (x : PortState) : PortState :=
  match x.fetch with
  | none => x
  | some c =>
    if c.id = id ∧ c.awaiting = true then { x with fetch := some { c with awaiting := false } }.raised .data else x

theorem setPort_port_self (s : State) (p : Port) : s.setPort p (s.port p) = s := by cases p <;> rfl

theorem wakeReader_eq (s : State) (id : Nat) (p : Port) : s.wakeReader id p = s.modPort p (PortState.woken id) := by
  unfold State.wakeReader PortState.woken
  split
  · rename_i h; simp [State.modPort, h, setPort_port_self]
  · rename_i c h
    by_cases hc : c.id = id ∧ c.awaiting = true
    · rw [if_pos hc, raise_eq, State.modPort_modPort]
      simp [State.modPort, h, hc]
    · simp [State.modPort, h, hc, setPort_port_self]

theorem wakeReaders_port (s : State) (id : Nat) (q : Port) : (s.wakeReaders id).port q = (s.port q).woken id := by
  unfold State.wakeReaders
  simp only [wakeReader_eq]
  rw [foldl_ports_port (fun _ => PortState.woken id) _ allPorts_nodup, if_pos (mem_allPorts q)]

theorem wakeReaders_part (s : State) (id : Nat) : s.wakeReaders id = { s with ports := (s.wakeReaders id).ports } := by
  unfold State.wakeReaders
  simp only [wakeReader_eq]
  exact foldl_modPort_part (fun p => p) (fun _ => PortState.woken id) allPorts s

/-- A reader of message `id` is told that the message is cut short (R82). -/
def PortState.cut (id : Nat) (x : PortState) : PortState :=
  match x.fetch with
  | none => x
  | some c => if c.id = id then x.raised .trunc else x

theorem cutReader_eq (s : State) (id : Nat) (p : Port) : s.cutReader id p = s.modPort p (PortState.cut id) := by
  unfold State.cutReader PortState.cut
  split
  · rename_i h; simp [State.modPort, h, setPort_port_self]
  · rename_i c h
    by_cases hc : c.id = id
    · rw [if_pos hc, raise_eq]; simp [State.modPort, h, hc]
    · simp [State.modPort, h, hc, setPort_port_self]

theorem cutReaders_port (s : State) (id : Nat) (q : Port) : (s.cutReaders id).port q = (s.port q).cut id := by
  unfold State.cutReaders
  simp only [cutReader_eq]
  rw [foldl_ports_port (fun _ => PortState.cut id) _ allPorts_nodup, if_pos (mem_allPorts q)]

theorem cutReaders_part (s : State) (id : Nat) : s.cutReaders id = { s with ports := (s.cutReaders id).ports } := by
  unfold State.cutReaders
  simp only [cutReader_eq]
  exact foldl_modPort_part (fun p => p) (fun _ => PortState.cut id) allPorts s

/-! ### The space-wait check (R19) -/

/-- The charge decision, from the free count of the port's reserve, the free count of SHARED and GUARD (R8, R19). -/
def canCharge (shared guard : Nat) (x : PortState) (c : Cls) (n : Nat) : Bool :=
  decide (n ≤ (x.reserve c).free ∨ n ≤ shared ∧ (c = .express ∨ guard ≤ shared - n))

theorem chargeable_isSome (s : State) (p : Port) (c : Cls) (n : Nat) :
    (s.chargeable p c n).isSome = canCharge s.sharedFree s.guard (s.port p) c n := by
  unfold State.chargeable canCharge
  split
  · rename_i h; simp [h]
  · rename_i h
    split
    · rename_i h2; simp [h2]
    · rename_i h2; simp only [Option.isSome_none]; symm; rw [decide_eq_false_iff_not]; tauto

/-- A port after the space-wait check, with `shared` cells of SHARED free. -/
def PortState.waitChecked (shared guard : Nat) (x : PortState) : PortState :=
  match x.wait with
  | none => x
  | some w => if canCharge shared guard x w.cls w.cells then { x with wait := none }.raised .space else x

theorem waitCheckPort_eq (s : State) (p : Port) :
    s.waitCheckPort p = s.modPort p (PortState.waitChecked s.sharedFree s.guard) := by
  unfold State.waitCheckPort PortState.waitChecked
  split
  · rename_i h; simp [State.modPort, h, setPort_port_self]
  · rename_i w h
    rw [chargeable_isSome]
    by_cases hc : canCharge s.sharedFree s.guard (s.port p) w.cls w.cells = true
    · rw [if_pos hc, raise_eq, State.modPort_modPort]; simp [State.modPort, h, hc]
    · simp [State.modPort, h, hc, setPort_port_self]

theorem reserveSum_eq (s : State) :
    s.reserveSum = (s.port .p0).reserveSize + (s.port .p1).reserveSize + (s.port .p2).reserveSize +
      (s.port .p3).reserveSize := rfl

/-- The free count of SHARED depends on the reserve sizes and the charged count of SHARED alone (R4). -/
theorem sharedFree_congr {s t : State} (hp : ∀ q, (t.port q).reserveSize = (s.port q).reserveSize)
    (hc : t.sharedCharged = s.sharedCharged) : t.sharedFree = s.sharedFree := by
  simp only [State.sharedFree, State.sharedSize, reserveSum_eq, hp, hc]

theorem PortState.raised_reserveSize (c : Cause) (x : PortState) : (x.raised c).reserveSize = x.reserveSize := by
  unfold PortState.raised; split <;> rfl

theorem PortState.waitChecked_reserveSize (n g : Nat) (x : PortState) :
    (x.waitChecked n g).reserveSize = x.reserveSize := by
  unfold PortState.waitChecked
  split
  · rfl
  · split
    · rw [PortState.raised_reserveSize]; rfl
    · rfl

/-- Running the check at the ports of a list is running each with the counts of the start. -/
theorem waitCheck_fold (l : List Port) (s : State) :
    l.foldl State.waitCheckPort s =
      l.foldl (fun t p => t.modPort p (PortState.waitChecked s.sharedFree s.guard)) s := by
  have key : ∀ (l : List Port) (t : State), t.sharedFree = s.sharedFree → t.guard = s.guard →
      l.foldl State.waitCheckPort t =
        l.foldl (fun t p => t.modPort p (PortState.waitChecked s.sharedFree s.guard)) t := by
    intro l
    induction l with
    | nil => intros; rfl
    | cons p l ih =>
      intro t h1 h2
      rw [List.foldl_cons, List.foldl_cons, waitCheckPort_eq, h1, h2]
      refine ih _ ?_ h2
      rw [← h1]
      refine sharedFree_congr (fun q => ?_) rfl
      rw [State.port_modPort]
      split
      · rename_i h; subst h; exact PortState.waitChecked_reserveSize _ _ _
      · rfl
  exact key l s rfl rfl

/-- The space-wait check: each port's wait is decided with the counts as the check finds them. -/
theorem waitCheck_port (s : State) (q : Port) :
    (s.waitCheck).port q = (s.port q).waitChecked s.sharedFree s.guard := by
  unfold State.waitCheck
  rw [waitCheck_fold, foldl_ports_port (fun _ => PortState.waitChecked s.sharedFree s.guard) _ allPorts_nodup,
    if_pos (mem_allPorts q)]

theorem waitCheck_part (s : State) : s.waitCheck = { s with ports := (s.waitCheck).ports } := by
  unfold State.waitCheck
  rw [waitCheck_fold]
  exact foldl_modPort_part (fun p => p) (fun _ => PortState.waitChecked s.sharedFree s.guard) allPorts s

/-! ### Notices (R96, R98, R99) -/

/-- A queue with a PEER notice about `r` offered to it. -/
def withPeer (r : Port) (attached : Bool) (ns : List Notice) : List Notice :=
  if ns.any (Notice.isPeerOf r) then ns.map fun n => if n.isPeerOf r then n.coalescePeer attached else n
  else ns ++ [.peer r attached 1]

/-- A queue with an AGREEMENT notice offered to it. -/
def withAgreement (a : AgreementInfo) (ns : List Notice) : List Notice :=
  if ns.any Notice.isAgreement then ns.map fun n => if n.isAgreement then .agreement a else n
  else ns ++ [.agreement a]

/-- A port whose queue an offer has reached, if it is ATTACHED. -/
def PortState.noticed (f : List Notice → List Notice) (x : PortState) : PortState :=
  if x.mode = .attached then { x with notices := f x.notices, causes := x.causes.add .notice } else x

theorem modPort_id (s : State) (p : Port) (f : PortState → PortState) (h : f (s.port p) = s.port p) :
    s.modPort p f = s := by
  simp [State.modPort, h, setPort_port_self]

theorem modPort_congr (s : State) (p : Port) {f g : PortState → PortState} (h : f (s.port p) = g (s.port p)) :
    s.modPort p f = s.modPort p g := by
  simp [State.modPort, h]

theorem offerPeer_eq (s : State) (r : Port) (b : Bool) (p : Port) :
    s.offerPeer r b p = s.modPort p (PortState.noticed (withPeer r b)) := by
  unfold State.offerPeer State.appendNotice
  by_cases hm : (s.port p).mode = .attached
  · have ha : s.attached p = true := by simp [State.attached, hm]
    rw [if_pos ha]
    by_cases h : (s.port p).notices.any (Notice.isPeerOf r) = true
    · rw [if_pos h, raise_eq, State.modPort_modPort]
      exact modPort_congr _ _ (by simp [PortState.noticed, PortState.raised, withPeer, hm, h])
    · rw [if_neg h, raise_eq, State.modPort_modPort]
      exact modPort_congr _ _ (by simp [PortState.noticed, PortState.raised, withPeer, hm, h])
  · have ha : ¬ s.attached p = true := by simp [State.attached, hm]
    rw [if_neg ha, modPort_id]
    simp [PortState.noticed, hm]

theorem offerAgreement_eq (s : State) (a : AgreementInfo) (p : Port) :
    s.offerAgreement a p = s.modPort p (PortState.noticed (withAgreement a)) := by
  unfold State.offerAgreement State.appendNotice
  by_cases hm : (s.port p).mode = .attached
  · have ha : s.attached p = true := by simp [State.attached, hm]
    rw [if_pos ha]
    by_cases h : (s.port p).notices.any Notice.isAgreement = true
    · rw [if_pos h, raise_eq, State.modPort_modPort]
      exact modPort_congr _ _ (by simp [PortState.noticed, PortState.raised, withAgreement, hm, h])
    · rw [if_neg h, raise_eq, State.modPort_modPort]
      exact modPort_congr _ _ (by simp [PortState.noticed, PortState.raised, withAgreement, hm, h])
  · have ha : ¬ s.attached p = true := by simp [State.attached, hm]
    rw [if_neg ha, modPort_id]
    simp [PortState.noticed, hm]

/-- The offers of one PEER notice: every other ATTACHED port takes it (R133). -/
theorem offerPeers_port (s : State) (r : Port) (b : Bool) (q : Port) :
    (s.offerPeers r b).port q = if q = r then s.port q else (s.port q).noticed (withPeer r b) := by
  unfold State.offerPeers
  simp only [offerPeer_eq]
  rw [foldl_ports_port (fun _ => PortState.noticed (withPeer r b)) _ (nodup_filter_ports _)]
  by_cases h : q = r
  · rw [if_neg (by rw [mem_filter_ports]; simpa using h), if_pos h]
  · rw [if_pos (by rw [mem_filter_ports]; simpa using h), if_neg h]

theorem offerPeers_part (s : State) (r : Port) (b : Bool) :
    s.offerPeers r b = { s with ports := (s.offerPeers r b).ports } := by
  unfold State.offerPeers
  simp only [offerPeer_eq]
  exact foldl_modPort_part (fun p => p) (fun _ => PortState.noticed (withPeer r b)) _ s

/-- The offers of one AGREEMENT notice to the members of a set. -/
theorem offerAgreements_port (s : State) (a : AgreementInfo) (m : PortSet) (q : Port) :
    (s.offerAgreements a m).port q = if m.get q then (s.port q).noticed (withAgreement a) else s.port q := by
  unfold State.offerAgreements
  simp only [offerAgreement_eq]
  rw [foldl_ports_port (fun _ => PortState.noticed (withAgreement a)) _ (nodup_filter_ports _)]
  simp only [mem_filter_ports]

theorem offerAgreements_part (s : State) (a : AgreementInfo) (m : PortSet) :
    s.offerAgreements a m = { s with ports := (s.offerAgreements a m).ports } := by
  unfold State.offerAgreements
  simp only [offerAgreement_eq]
  exact foldl_modPort_part (fun p => p) (fun _ => PortState.noticed (withAgreement a)) _ s

/-! ### Claims, publication and the ending of deliveries -/

/-- A claim of intake at each port of a set (R70). -/
theorem claim_port (s : State) (m : PortSet) (q : Port) :
    (s.claim m).port q = if m.get q then { s.port q with intake := (s.port q).intake + 1 } else s.port q := by
  unfold State.claim
  rw [foldl_ports_port (fun _ x => { x with intake := x.intake + 1 }) _ (nodup_filter_ports _)]
  simp only [mem_filter_ports]

theorem claim_part (s : State) (m : PortSet) : s.claim m = { s with ports := (s.claim m).ports } :=
  foldl_modPort_part (fun p => p) (fun _ x => { x with intake := x.intake + 1 }) _ s

/-- What publication does at the port of a CLAIMED entry of class `c` (R72). -/
def PortState.published (id : Nat) (c : Cls) (x : PortState) : PortState :=
  if x.mode = .attached then (x.setQueue c (x.queue c ++ [id])).raised .arrival else x.dropDelivery id c .claimed

theorem PortState.setQueue_mode (x : PortState) (c : Cls) (l : List Nat) : (x.setQueue c l).mode = x.mode := by
  cases c <;> rfl

theorem publishAt_eq (s : State) (id : Nat) (c : Cls) (e : Entry) :
    s.publishAt id c e = s.modPort e.port (PortState.published id c) := by
  unfold State.publishAt
  by_cases hm : (s.port e.port).mode = .attached
  · have ha : s.attached e.port = true := by simp [State.attached, hm]
    rw [if_pos ha, raise_eq, State.modPort_modPort]
    exact modPort_congr _ _ (by simp [PortState.published, hm])
  · have ha : ¬ s.attached e.port = true := by simp [State.attached, hm]
    rw [if_neg ha]
    exact modPort_congr _ _ (by simp [PortState.published, hm])

/-- A delivery list with no port twice has at most one entry to a port among any of its entries. -/
theorem nodup_filter_entries {l : List Entry} (h : (l.map Entry.port).Nodup) (c : Entry → Bool) :
    ((l.filter c).map Entry.port).Nodup :=
  List.Nodup.sublist (List.Sublist.map _ List.filter_sublist) h

/-- Publication of a record: its entries as R72 gives them, and each port of a CLAIMED entry once. -/
theorem publish_of_some {s : State} {id : Nat} {r : Record} (h : s.record? id = some r)
    (hn : (r.deliveries.map Entry.port).Nodup) :
    (∀ q, (s.publish id).port q =
      match (r.deliveries.filter fun e => e.stage = .claimed).find? (fun e => e.port == q) with
      | some _ => (s.port q).published id r.cls
      | none => s.port q) ∧
    s.publish id =
      { s with
        ports := (s.publish id).ports
        records := insertRecord id { r with deliveries := r.deliveries.map s.publishedEntry } s.records } := by
  unfold State.publish
  rw [h]
  simp only [publishAt_eq]
  refine ⟨fun q => ?_, ?_⟩
  · rw [foldl_modPort_port Entry.port (fun _ => PortState.published id r.cls) _ (nodup_filter_entries hn _)]
    simp only [State.putRecord_port]
    split <;> rename_i hx <;> rw [hx]
  · exact foldl_modPort_part Entry.port (fun _ => PortState.published id r.cls) _
      (s.putRecord id { r with deliveries := r.deliveries.map s.publishedEntry })

/-- The ending of deliveries of a record: the entries ended, and each of their ports once (R34). -/
theorem endDeliveries_of_some {s : State} {id : Nat} {r : Record} (f : Entry → Option Fate)
    (h : s.record? id = some r) (hn : (r.deliveries.map Entry.port).Nodup) :
    (∀ q, (s.endDeliveries id f).port q =
      match (r.deliveries.filter fun e => (f e).isSome).find? (fun e => e.port == q) with
      | some e => (s.port q).dropDelivery id r.cls e.stage
      | none => s.port q) ∧
    s.endDeliveries id f =
      { s with
        ports := (s.endDeliveries id f).ports
        records := insertRecord id { r with deliveries := r.deliveries.map (Entry.endBy f) } s.records } := by
  unfold State.endDeliveries
  rw [h]
  dsimp only
  refine ⟨fun q => ?_, ?_⟩
  · rw [foldl_modPort_port Entry.port (fun e x => x.dropDelivery id r.cls e.stage) _ (nodup_filter_entries hn _)]
    simp only [State.putRecord_port]
    split <;> rename_i hx <;> rw [hx]
  · exact foldl_modPort_part Entry.port (fun e x => x.dropDelivery id r.cls e.stage) _
      (s.putRecord id { r with deliveries := r.deliveries.map (Entry.endBy f) })

/-! ### Retire (R36, R37) -/

/-- The retire check on a record that does not retire leaves everything. -/
theorem retireOne_of_not {s : State} {id : Nat} (h : ∀ r, s.record? id = some r → r.retires = false) :
    s.retireOne id = s := by
  unfold State.retireOne
  split
  · rfl
  · rename_i r hr; rw [h r hr]; rfl

/-- The retire check reaches no other record. -/
theorem retireOne_record?_of_ne {s : State} {id j : Nat} (h : j ≠ id) : (s.retireOne id).record? j = s.record? j := by
  have hret : ∀ (u : State) p c a l, (State.returnCells u p c a l).record? j = u.record? j := by
    intro u p c a l
    unfold State.returnCells State.subCharge
    rcases a with _ | a
    · rfl
    · cases a <;> rfl
  have hraise : ∀ (u : State) p k, (State.raise u p k).record? j = u.record? j := by
    intro u p k; rw [raise_eq]; rfl
  unfold State.retireOne
  split
  · rfl
  · split
    · dsimp only
      split
      · unfold State.offerReceipt
        split
        · unfold State.postReceipt State.appendNotice
          rw [hraise, State.modPort_record?, State.freeRecord_record?_of_ne _ _ h, hret]
        · rw [State.modPort_record?, State.putRecord_record?_of_ne _ _ _ h, hret]
      · rw [State.freeRecord_record?_of_ne _ _ h, hret]
    · rfl

/-- A record that retires is FREE, or REPORTING without cells (R37, R39). -/
theorem retireOne_record?_self {s : State} {id : Nat} {r : Record} (hr : s.record? id = some r)
    (h : r.retires = true) :
    (s.retireOne id).record? id = none ∨
      (s.retireOne id).record? id =
        some { r with state := .reporting, cells := [], account := none, remaining := none } := by
  unfold State.retireOne
  rw [hr]
  dsimp only
  rw [if_pos h]
  split
  · unfold State.offerReceipt
    split
    · left
      unfold State.postReceipt State.appendNotice
      rw [raise_eq]
      simp
    · right
      simp
  · left; simp

/-! ### The order in which one event returns cells (R12, R38) -/

section
variable (s t : State)

@[simp] theorem returnedInOrder_pending : (s.returnedInOrder t).pending = t.pending := rfl
@[simp] theorem returnedInOrder_rstHigh : (s.returnedInOrder t).rstHigh = t.rstHigh := rfl
@[simp] theorem returnedInOrder_ports : (s.returnedInOrder t).ports = t.ports := rfl
@[simp] theorem returnedInOrder_records : (s.returnedInOrder t).records = t.records := rfl
@[simp] theorem returnedInOrder_mem : (s.returnedInOrder t).mem = t.mem := rfl
@[simp] theorem returnedInOrder_sharedCharged : (s.returnedInOrder t).sharedCharged = t.sharedCharged := rfl
@[simp] theorem returnedInOrder_tick : (s.returnedInOrder t).tick = t.tick := rfl
@[simp] theorem returnedInOrder_guard : (s.returnedInOrder t).guard = t.guard := rfl
@[simp] theorem returnedInOrder_deflife : (s.returnedInOrder t).deflife = t.deflife := rfl
@[simp] theorem returnedInOrder_slot : (s.returnedInOrder t).slot = t.slot := rfl
@[simp] theorem returnedInOrder_interval : (s.returnedInOrder t).interval = t.interval := rfl
@[simp] theorem returnedInOrder_port (p : Port) : (s.returnedInOrder t).port p = t.port p := rfl
@[simp] theorem returnedInOrder_record? (id : Nat) : (s.returnedInOrder t).record? id = t.record? id := rfl
@[simp] theorem returnedInOrder_attached (p : Port) : (s.returnedInOrder t).attached p = t.attached p := rfl

/-- The free list: what it held, then the cells of each record that has lost its own. -/
theorem returnedInOrder_freeList :
    (s.returnedInOrder t).freeList =
      s.freeList ++ s.records.flatMap fun e => if t.cellsOf e.1 = [] then e.2.cells else [] := rfl

end

/-- Where every record keeps its cells, none are returned. -/
theorem returnedInOrder_of_kept {s t : State} (h : ∀ e ∈ s.records, t.cellsOf e.1 = e.2.cells) :
    (s.returnedInOrder t).freeList = s.freeList := by
  have hn : (s.records.flatMap fun e => if t.cellsOf e.1 = [] then e.2.cells else []) = [] := by
    refine List.flatMap_eq_nil_iff.2 fun e he => ?_
    rw [h e he]
    split
    · assumption
    · rfl
  rw [returnedInOrder_freeList, hn, List.append_nil]

end Sys2Proof.Machine
end

