-- ==== Sys2Proof/Tests/Slice0.lean ====
section
/-! SUPPORT. Tests: the refusals of WellFormed, one small step of every row with the result the spec gives, and for
each statement with hypotheses a state that meets them. -/

namespace Sys2Proof.Tests

open Sys2Proof Sys2Proof.Machine

/-! ### WellFormed -/

theorem test_wellFormed_badcmd : (Instr.badcmd .p0 0x10).wellFormed = false ∧ (Instr.badcmd .p0 0x15).wellFormed = true := by
  decide

theorem test_wellFormed_clocks :
    (Instr.selectRise .p1 8).wellFormed = false ∧ (Instr.portResetFall .p1 8).wellFormed = false ∧
      (Instr.selectRise .p1 7).wellFormed = true := by decide

theorem test_wellFormed_record :
    (Instr.expiryOfOpenRecord 256).wellFormed = false ∧ (Instr.expiryOfSealedRecord 256).wellFormed = false ∧
      (Instr.expiryOfOpenRecord 255).wellFormed = true := by decide

theorem test_wellFormed_tick :
    (Instr.tick [.messages, .messages]).wellFormed = false ∧ (Instr.tick [.lease .p3, .messages]).wellFormed = true := by
  decide

/-! ### Small states -/

/-- An ATTACHED port between transactions. -/
def idle : PortState := { PortState.reset with mode := .attached }

/-- An ATTACHED port whose command byte is in progress. -/
def cmd : PortState := { idle with selHigh := false, txn := Txn.quiet .command }

/-- An ATTACHED port that has received these bytes of a transaction. -/
def got (bytes : List Byte) : PortState := { cmd with txn := { Txn.quiet .argument with collected := bytes } }

/-- The part with P0 and P1 as given, P2 ATTACHED, P3 DETACHED, and a free list of two cells, which suffices for one
small step. -/
def part (a b : PortState) (rs : List (Nat × Record)) : State :=
  { State.reset with ports := ⟨a, b, idle, PortState.reset⟩, records := rs, freeList := [0, 1] }

/-- A BULK message of P0 to P1: 20 bytes declared, 3 deposited, one cell charged to SHARED. -/
def message (st : RecState) (stage : Stage) : Record where
  state := st
  source := .p0
  serial := 7
  cls := .bulk
  early := false
  receipt := false
  tag := 0x0102
  declared := 20
  deposited := 3
  cells := [5]
  account := some .shared
  remaining := none
  expired := false
  abortCause := none
  deliveries := [⟨.p1, none, stage⟩]

/-- What `f` reads in the state an outcome answers. -/
def view {α : Type} (o : StepOutcome) (f : State → α) : Option α :=
  match o with
  | .next t => some (f t)
  | _ => none

/-- The reply of port `p`. -/
def reply (p : Port) (t : State) : List Byte := (t.port p).txn.reply

/-! ### One step of each row -/

set_option maxRecDepth 20000

/-- R173, R182: the 27 bytes of a port that has just attached. -/
theorem test_status :
    view (exec (.status .p0) (part cmd idle [])) (reply .p0) =
      some [0, 1, 0, 0, 0, 0, 0, 0, 0, 0, 0, 0, 0, 64, 0, 0, 0, 4, 0, 0, 0, 0, 0, 0, 0, 0, 0] := by decide

/-- R124, R133: P1 attaches beside P0 and P2. -/
theorem test_attach :
    view (exec (.attach .p1) (part idle { cmd with mode := .detached } []))
        (fun t => (reply .p1 t, (t.port .p1).mode, (t.port .p0).notices, (t.port .p0).causes.notice)) =
      some ([0x00, 0x00, 0x05], .attached, [.peer .p1 true 1], true) := by decide

/-- R98, worked example of chapter 05, E3: the attach of P2 replaces the DETACHED notice with count 2. -/
theorem test_attach_coalesces :
    view (exec (.attach .p1) (part { idle with notices := [.peer .p1 false 1] } { cmd with mode := .detached } []))
        (fun t => (t.port .p0).notices) = some [.peer .p1 true 2] := by decide

/-- R126: the reply counts the delivery that waits and the notices. -/
theorem test_detach :
    view (exec (.detach .p1) (part idle { cmd with bulk := [9], intake := 1 } [(9, message .sealed .queued)]))
        (fun t => (reply .p1 t, (t.port .p1).mode, (t.port .p1).lastCause)) =
      some ([0x00, 0x02, 0x01, 0x00], .teardown, .detach) := by decide

/-- R172. -/
theorem test_setport :
    view (exec (.setport .p0 0x1F) (part (got [0x13, 128, 15, 255]) idle []))
        (fun t => (reply .p0 t, (t.port .p0).leaseCounter)) = some ([0x00, 128, 15, 255, 0x1F, 255], 255) := by decide

/-- R171: a set of items that names bit 5 is refused, and ARRIVAL alone is cleared by bit 0. -/
theorem test_clear :
    view (exec (.clear .p0 0x01) (part { got [0x14] with causes := ⟨true, true, false, false, false⟩ } idle []))
        (reply .p0) = some [0x00, 0x02, 0x00] ∧
      view (exec (.clear .p0 0x20) (part (got [0x14]) idle [])) (reply .p0) = some [0x12, 0x00, 0x00] := by decide

/-- Worked example of chapter 01: after EXPRESS 200, BULK 100 is granted 56, and 768 shared cells stay free. -/
theorem test_reserve_cut :
    view (exec (.reserve .p0 100) (part { got [0x20, 0x01, 0x00] with resExpress := ⟨200, 0⟩ } idle [])) (reply .p0) =
      some [0x00, 0x00, 56, 0x03, 0x00] := by decide

/-- Worked example of chapter 01, E7: a reserve of 256 with 94 charged, asked to become 0, becomes 94. -/
theorem test_reserve_clamped :
    view (exec (.reserve .p0 0) (part { got [0x20, 0x01, 0x00] with resBulk := ⟨256, 94⟩ } idle []))
        (fun t => (t.port .p0).resBulk) = some ⟨94, 94⟩ := by decide

/-- R52, R54: P0 names itself, P1 and P3: P1 alone is admitted, and the lowest FREE id and cell 0 are taken. -/
theorem test_open :
    view (exec (.openMsg .p0 0x34) (part (got [0x21, 0x0B, 0x01, 0x02, 0x00, 0x20, 0x00, 0x00, 0x12]) idle []))
        (fun t => (reply .p0 t, (t.port .p0).deposit, (t.port .p1).intake, (t.record? 0).map Record.tag)) =
      some ([0x00, 0, 0, 0, 0x02, 0x03, 0x02, 0x01, 0x04, 0x02], .opened 0, 1, some 0x1234) := by decide

/-- Worked example of chapter 01, E4: SHARED has 96 free, 82 cells would leave 14, below the guard: NOSPACE, wait armed. -/
theorem test_open_nospace :
    view (exec (.openMsg .p0 0)
        { part { got [0x21, 0x02, 0x01, 0x04, 0x0A, 0x28, 0, 0, 0] with resExpress := ⟨200, 0⟩, resBulk := ⟨56, 0⟩ }
            { idle with resExpress := ⟨640, 0⟩ } [] with sharedCharged := 32 })
        (fun t => ((reply .p0 t).head?, (t.port .p0).wait)) = some (some 0x17, some ⟨82, .bulk⟩) := by decide

/-- R56, R161: the count byte holds the count less one. -/
theorem test_put :
    view (exec (.put .p0 2) (part { got [0x22] with deposit := .opened 9 } idle [(9, message .opened .claimed)]))
        (fun t => ((t.port .p0).txn.phase, (t.port .p0).txn.put)) = some (.data, ⟨3, .ok, 0, false, 0⟩) := by decide

/-- A port in the data bytes of a PUT. -/
def putting (u : PutCtx) (d : Deposit) : PortState :=
  { cmd with deposit := d, txn := { Txn.quiet .data with put := u } }

/-- R57, R2: byte 3 of the message goes to byte 3 of cell 5, and the awaiting reader receives DATA. -/
theorem test_putDataByte :
    view (exec (.putDataByte .p0 0xAB)
        (part (putting ⟨1, .ok, 0, false, 0⟩ (.opened 9)) { idle with fetch := some ⟨9, 3, true⟩ }
          [(9, message .opened .fetching)]))
        (fun t => (t.mem, reply .p0 t, (t.port .p1).causes.data)) =
      some ([(163, 0xAB)], [0x00, 0, 1, 0, 4], true) := by decide

/-- Worked example of chapter 03, E5: a lapse in the middle of a PUT. -/
theorem test_putDataByte_lapsed :
    view (exec (.putDataByte .p0 0xAB) (part (putting ⟨1, .ok, 120, false, 120⟩ (.lapsed 3 120)) idle []))
        (fun t => (reply .p0 t, (t.port .p0).deposit)) = some ([0x1B, 0, 120, 0, 120], .none) := by decide

/-- R61, worked example of chapter 03, E9: 7 cells trimmed to 5 at 150 bytes. -/
theorem test_seal :
    view (exec (.sealMsg .p0)
        (part { cmd with deposit := .opened 9 } idle
          [(9, { message .opened .fetching with
            declared := 200, deposited := 150, cells := [0, 1, 2, 3, 4, 5, 6], early := true })]))
        (fun t => (reply .p0 t, (t.record? 9).map fun r => (r.state, r.cells))) =
      some ([0x00, 9, 0, 150], some (.sealed, [0, 1, 2, 3, 4])) := by decide

/-- R63: SEAL publishes the CLAIMED entry, and sets ARRIVAL. -/
theorem test_seal_publishes :
    view (exec (.sealMsg .p0)
        (part { cmd with deposit := .opened 9 } { idle with intake := 1 } [(9, message .opened .claimed)]))
        (fun t => ((t.port .p1).bulk, (t.port .p1).intake, (t.port .p1).causes.arrival, (t.port .p0).deposit)) =
      some ([9], 1, true, .none) := by decide

/-- R65, R29: the reader keeps the message and receives TRUNC. -/
theorem test_cancel :
    view (exec (.cancel .p0)
        (part { cmd with deposit := .opened 9 } { idle with intake := 1, fetch := some ⟨9, 0, false⟩ }
          [(9, { message .opened .fetching with early := true })]))
        (fun t => (reply .p0 t, (t.record? 9).map fun r => (r.state, r.abortCause), (t.port .p1).causes.trunc)) =
      some ([0x00, 9], some (.aborted, some .cancelled), true) := by decide

/-- Worked example of chapter 04, FETCH 3: the streak 2 is not below the bias 2, so bulk message 5 is taken. -/
theorem test_fetch :
    view (exec (.fetch .p1)
        (part idle { cmd with express := [11], bulk := [5, 14], streak := 2, bias := 2 } [(5, message .sealed .queued)]))
        (fun t => ((t.port .p1).fetch, (t.port .p1).streak, (t.port .p1).bulk)) = some (some ⟨5, 0, false⟩, 0, [14]) := by
  decide

/-- R79, worked example of chapter 03, E6: 36 bytes between offset 64 and length 100. -/
theorem test_get :
    view (exec (.get .p1 63)
        (part idle { got [0x31] with fetch := some ⟨9, 64, false⟩ }
          [(9, { message .opened .fetching with declared := 200, deposited := 100 })]))
        (fun t => (reply .p1 t, (t.port .p1).txn.payload)) = some ([0x00, 0, 36], 36) := by decide

/-- R80. -/
theorem test_getPayloadByte :
    view (exec (.getPayloadByte .p1)
        { part idle { cmd with
            fetch := some ⟨9, 1, false⟩, txn := { Txn.quiet .reply with reply := [0, 0, 2], pos := 3, payload := 2 } }
            [(9, message .sealed .fetching)] with mem := [(160, 0x11), (161, 0x22)] })
        (fun t => ((t.port .p1).txn.sdo, (t.port .p1).txn.payload, (t.port .p1).fetch)) =
      some (some 0x22, 1, some ⟨9, 2, false⟩) := by decide

/-- Worked example of chapter 04, E7: a DEFER of an expired message ends the delivery EXPIRED, and the record retires. -/
theorem test_release_expired :
    view (exec (.release .p1 0x03)
        (part idle { got [0x32] with intake := 1, fetch := some ⟨9, 0, false⟩ }
          [(9, { message .sealed .fetching with expired := true, cells := [], account := none, deposited := 0 })]))
        (fun t => (reply .p1 t, t.record? 9, (t.port .p1).intake)) = some ([0x00, 9, 0x03], none, 0) := by decide

/-- Worked example of chapter 04, DEFER at E2: record 4 returns ahead of record 9. -/
theorem test_release_defer :
    view (exec (.release .p1 0x03)
        (part idle { got [0x32] with intake := 2, bulk := [9], fetch := some ⟨4, 0, false⟩ }
          [(4, message .sealed .fetching)]))
        (fun t => (reply .p1 t, (t.port .p1).bulk, (t.port .p1).intake)) = some ([0x00, 4, 0x07], [4, 9], 2) := by decide

/-- Worked example of chapter 04, E3 with P3 DETACHED in place of full: P0 and P2 are admitted. -/
theorem test_forward :
    view (exec (.forward .p1 0x0D)
        (part idle { got [0x33] with fetch := some ⟨9, 0, false⟩ } [(9, message .sealed .fetching)]))
        (fun t => (reply .p1 t, (t.port .p0).bulk, (t.port .p2).intake)) =
      some ([0x00, 0x05, 0x02, 0x01, 0x02, 0x04], [9], 1) := by decide

/-- R101: the AGREEMENT notice leaves the queue. -/
theorem test_notice :
    view (exec (.notice .p0)
        (part { cmd with notices := [.agreement ⟨.declined, .deflife, 500, .p2, some .p1⟩, .peer .p3 false 1] } idle []))
        (fun t => (reply .p0 t, (t.port .p0).notices)) =
      some ([0x00, 0x01, 0x03, 0x03, 0x03, 0x01, 0xF4, 0x02, 0x01], [.peer .p3 false 1]) := by decide

/-- R144: P0 proposes GUARD 8 while P0, P1 and P2 are ATTACHED. -/
theorem test_propose :
    view (exec (.propose .p0 8) (part (got [0x50, 0x02, 0x00]) idle []))
        (fun t => (reply .p0 t, t.slot.map fun a => (a.value, a.remaining), (t.port .p2).notices)) =
      some ([0x00, 0x07, 0x01], some (8, 32), [.agreement ⟨.proposed, .guard, 8, .p0, none⟩]) := by decide

/-- A proposal of GUARD 8 by P0 that waits for P1. -/
def proposal : Proposal := ⟨.guard, 8, .p0, ⟨true, true, false, false⟩, ⟨true, false, false, false⟩, 5⟩

/-- R145, R147: the last endorsement adopts. -/
theorem test_endorse :
    view (exec (.endorse .p1 8) { part idle (got [0x51, 0x02, 0x00]) [] with slot := some proposal })
        (fun t => (reply .p1 t, t.guard, t.slot)) = some ([0x00, 0x02, 0x00], 8, none) := by decide

/-- R146. -/
theorem test_decline :
    view (exec (.decline .p1 0x02) { part idle (got [0x52]) [] with slot := some proposal })
        (fun t => (reply .p1 t, t.guard, (t.port .p0).notices)) =
      some ([0x00], 16, [.agreement ⟨.declined, .guard, 8, .p0, some .p1⟩]) := by decide

/-- R175, R176, R182. -/
theorem test_inspectMessage :
    view (exec (.inspectMessage .p1 9) (part idle (got [0x60, 0x01]) [(9, message .sealed .queued)])) (reply .p1) =
        some [0, 2, 0, 0, 7, 1, 0, 1, 2, 0, 20, 0, 3, 1, 2, 0, 0, 0, 1, 1, 0xFF, 1, 0] ∧
      view (exec (.inspectMessage .p1 9)
        (part idle (got [0x60, 0x01]) [(9, { message .sealed .queued with deliveries := [⟨.p2, none, .queued⟩] })]))
          (fun t => (reply .p1 t).head?) = some (some 0x1E) := by decide

/-- R177: the reply has 39 bytes, and without reserves SHARED has the size 1024. -/
theorem test_inspectPool :
    view (exec (.inspectPool .p0 0) (part (got [0x60, 0x02]) idle []))
        (fun t => ((reply .p0 t).length, (reply .p0 t).drop 33)) = some (39, [4, 0, 0, 0, 0, 2]) := by decide

/-- R178. -/
theorem test_inspectSettings :
    view (exec (.inspectSettings .p0 0) { part (got [0x60, 0x03]) idle [] with slot := some proposal }) (reply .p0) =
      some [0, 1, 16, 0, 0, 1, 2, 0, 8, 0, 3, 1, 5] := by decide

/-- R174. -/
theorem test_inspectInvalidKind :
    view (exec (.inspectInvalidKind .p0 0) (part (got [0x60, 0x04]) idle [])) (reply .p0) = some [0x12] := by decide

/-- R157. -/
theorem test_badcmd :
    view (exec (.badcmd .p0 0x15) (part cmd idle [])) (fun t => ((t.port .p0).txn.phase, reply .p0 t)) =
      some (.ignore, [0x1F]) := by decide

/-- R156, R181: ATTACHED, a notice held, always 1 in bit 0. -/
theorem test_selectFall :
    view (exec (.selectFall .p0) (part { idle with notices := [.peer .p1 true 1] } idle []))
        (fun t => ((t.port .p0).txn.phase, (t.port .p0).txn.summary)) = some (.command, 0x51) := by decide

/-- R163, R117: the end of a transaction in ARGUMENT sets the frame-error flag and reloads the lease counter. -/
theorem test_selectRise :
    view (exec (.selectRise .p0 0) (part { got [0x14] with leasePeriod := 9, leaseCounter := 1 } idle []))
        (fun t => ((t.port .p0).frameError, (t.port .p0).leaseCounter, (t.port .p0).txn.phase)) =
      some (true, 9, .idle) := by decide

/-- R163: in COMMAND without a clock nothing is set, and with one clock the flag is. -/
theorem test_selectRise_command :
    view (exec (.selectRise .p0 0) (part cmd idle [])) (fun t => (t.port .p0).frameError) = some false ∧
      view (exec (.selectRise .p0 1) (part cmd idle [])) (fun t => (t.port .p0).frameError) = some true := by decide

/-- R127, R165. -/
theorem test_portResetFall :
    view (exec (.portResetFall .p0 0) (part { idle with leasePeriod := 9, leaseCounter := 4 } idle []))
        (fun t => ((t.port .p0).mode, (t.port .p0).lastCause, (t.port .p0).leaseCounter, (t.port .p0).txn.phase)) =
      some (.teardown, .portReset, 0, .held) := by decide

/-- R165: with select low the port is BLOCKED. -/
theorem test_portResetRise :
    view (exec (.portResetRise .p0)
        (part { PortState.reset with prstHigh := false, selHigh := false, txn := Txn.quiet .held } idle []))
        (fun t => (t.port .p0).txn.phase) = some .blocked := by decide

/-- R135, R140. -/
theorem test_chipReset :
    view (exec .chipReset (part { idle with serial := 9, lastCause := .lease } idle [(9, message .sealed .queued)]))
        (fun t => ((t.port .p0).mode, (t.port .p0).serial, (t.port .p0).lastCause, t.records.length, t.interval)) =
      some (.detached, 0, .chipReset, 0, none) := by decide

/-- R108, R140: the first interval is of TICK code 1. -/
theorem test_chipResetRelease :
    view (exec .chipResetRelease { State.reset with rstHigh := false, interval := none })
        (fun t => (t.rstHigh, t.interval)) = some (true, some 1) := by decide

/-- R111, R112, R118: the message of P0 expires, and the lease of P1 counts down. -/
theorem test_tick :
    view (exec (.tick [])
        (part { idle with deposit := .opened 9 } { idle with intake := 1, leasePeriod := 9, leaseCounter := 4 }
          [(9, { message .opened .claimed with remaining := some 1 })]))
        (fun t => ((t.port .p0).deposit, t.record? 9, (t.port .p1).intake, (t.port .p1).leaseCounter)) =
      some (.lapsed 9 3, none, 0, 3) := by decide

/-- R119: the lease of P1 ends, which retires record 5, in the tick that expires record 3: its cell 6 is free before cell 5
in either order. -/
theorem test_tick_either_order :
    ∀ order ∈ [[TickTask.messages, .lease .p1], [.lease .p1, .messages]],
      view (exec (.tick order)
          (part idle { idle with intake := 1, fetch := some ⟨5, 0, false⟩, leasePeriod := 9, leaseCounter := 1 }
            [(3, { message .sealed (.done .accepted) with cells := [6], remaining := some 1 }),
              (5, message .sealed .fetching)]))
          (fun t => t.freeList) = some [0, 1, 6, 5] := by decide

/-- R118: no count while the port is in a transaction. -/
theorem test_tick_in_transaction :
    view (exec (.tick []) (part { cmd with leasePeriod := 9, leaseCounter := 4 } idle []))
        (fun t => (t.port .p0).leaseCounter) = some 4 := by decide

/-- R112. -/
theorem test_expiryOfOpenRecord :
    view (exec (.expiryOfOpenRecord 9)
        (part { idle with deposit := .opened 9 } { idle with intake := 1, fetch := some ⟨9, 3, true⟩ }
          [(9, { message .opened .fetching with early := true, remaining := some 0 })]))
        (fun t => ((t.port .p0).deposit, (t.record? 9).map Record.state, (t.port .p1).causes)) =
      some (.lapsed 9 3, some .aborted, ⟨false, false, false, true, true⟩) := by decide

/-- R113: the reader of an expired SEALED message keeps it and is told nothing. -/
theorem test_expiryOfSealedRecord :
    view (exec (.expiryOfSealedRecord 9)
        (part idle { idle with intake := 1, fetch := some ⟨9, 3, false⟩ }
          [(9, { message .sealed .fetching with remaining := some 0 })]))
        (fun t => ((t.record? 9).map fun r => (r.state, r.expired, r.remaining), (t.port .p1).causes)) =
      some (some (.sealed, true, none), CauseSet.empty) := by decide

/-- R119. -/
theorem test_leaseExpiry :
    view (exec (.leaseExpiry .p0) (part { idle with leasePeriod := 9, leaseCounter := 0 } idle []))
        (fun t => ((t.port .p0).mode, (t.port .p0).lastCause)) = some (.teardown, .lease) := by decide

/-- R149. -/
theorem test_proposalTimeout :
    view (exec .proposalTimeout { part idle idle [] with slot := some { proposal with remaining := 0 } })
        (fun t => (t.slot, t.guard, (t.port .p1).notices)) =
      some (none, 16, [.agreement ⟨.timedOut, .guard, 8, .p0, none⟩]) := by decide

/-- R132, R135. -/
theorem test_teardownCompletion :
    view (exec (.teardownCompletion .p1)
        (part idle { idle with mode := .teardown, bulk := [9], intake := 1, limit := 8, resBulk := ⟨10, 0⟩ }
          [(9, { message .sealed .queued with deliveries := [⟨.p1, none, .queued⟩, ⟨.p2, none, .fetching⟩] })]))
        (fun t => ((t.port .p1).mode, (t.port .p1).limit,
          (t.record? 9).map fun r => r.deliveries.map Entry.stage, (t.port .p0).notices)) =
      some (.detached, 64, some [.done .detached, .fetching], [.peer .p1 false 1]) := by decide

/-- R102, R97. -/
theorem test_receiptPosting :
    view (exec (.receiptPosting .p0)
        (part { idle with backlog := [9], notices := List.replicate 27 (.peer .p1 true 1) } idle
          [(9, { message .reporting (.done .accepted) with cells := [], account := none })]))
        (fun t => ((t.port .p0).notices.length, (t.port .p0).backlog, t.record? 9)) = some (28, [], none) := by decide

/-- R157, R179: the command byte selects the command. -/
theorem test_commandRow :
    ([0x10, 0x11, 0x12, 0x23, 0x24, 0x30, 0x40, 0x13, 0x60, 0x00, 0xFF] : List Byte).map
        ((part cmd idle []).byteRow .p0) =
      [some (.status .p0), some (.attach .p0), some (.detach .p0), some (.sealMsg .p0), some (.cancel .p0),
        some (.fetch .p0), some (.notice .p0), some (.argumentByteReceived .p0 0x13),
        some (.argumentByteReceived .p0 0x60), some (.badcmd .p0 0x00), some (.badcmd .p0 0xFF)] := by decide

/-- R154, R157: the command byte of CLEAR is collected. -/
theorem test_argumentByteReceived :
    view (exec (.argumentByteReceived .p0 0x14) (part cmd idle []))
        (fun t => ((t.port .p0).txn.phase, (t.port .p0).txn.collected)) = some (.argument, [0x14]) := by decide

/-- R155: after the end of the reply SDO carries 0x00. -/
theorem test_replyByteShiftedOut :
    view (exec (.replyByteShiftedOut .p0)
        (part { cmd with txn := { Txn.quiet .reply with reply := [0x12], pos := 0 } } idle []))
          (fun t => ((t.port .p0).txn.sdo, (t.port .p0).txn.pos)) = some (some 0x12, 1) ∧
      view (exec (.replyByteShiftedOut .p0)
        (part { cmd with txn := { Txn.quiet .reply with reply := [0x12], pos := 1 } } idle []))
          (fun t => (t.port .p0).txn.sdo) = some (some 0x00) := by decide

/-! ### A part in traffic, which satisfies every invariant -/

/-- P0 holds record 0 OPEN, with a CLAIMED delivery to P1, whose NOTICE cause is set and unmasked. -/
def traffic : State :=
  { State.reset with
    pending := [.status .p0]
    ports :=
      ⟨{ cmd with deposit := .opened 0 },
        { idle with
          intake := 1, causes := ⟨false, true, false, false, false⟩, mask := ⟨false, true, false, false, false⟩ },
        PortState.reset, PortState.reset⟩
    records := [(0, { message .opened .claimed with cells := [0] })]
    freeList := List.range' 1 1023
    sharedCharged := 1 }

theorem traffic_record (id : Nat) :
    traffic.record? id = if 0 = id then some { message .opened .claimed with cells := [0] } else none := rfl

theorem traffic_table : TableOk traffic := by
  constructor <;> decide

theorem traffic_pool : PoolOk traffic where
  table := traffic_table
  cells := by
    show (List.range' 1 1023 ++ [0]).Perm (List.range 1024)
    rw [List.range_eq_range', show (1024 : Nat) = 1023 + 1 from rfl, List.range'_succ]
    exact List.perm_append_comm
  account := by decide
  reporting := by decide
  reserves := by intro p c; cases p <;> cases c <;> decide
  shared := by decide
  reserveRoom := by intro p c; cases p <;> cases c <;> decide
  sharedRoom := by decide
  sum := by decide
  perPort := by intro p; cases p <;> decide

theorem traffic_books : BooksOk traffic where
  table := traffic_table
  deposit := by
    intro p id
    cases p <;> simp [traffic_record, message] <;> simp [traffic, State.port, PerPort.get, cmd, idle, PortState.reset]
  depositMode := by intro p; cases p <;> decide
  backlog := by
    intro p id
    cases p <;> simp [traffic_record, message] <;> simp [traffic, State.port, PerPort.get, cmd, idle, PortState.reset]
  backlogOnce := by intro p; cases p <;> decide
  backlogMode := by intro p; cases p <;> decide
  backlogFull := by intro p; cases p <;> decide

theorem traffic_lengths : LengthsOk traffic where
  pool := traffic_pool
  books := traffic_books
  lengths := by simp [traffic, message, Record.lengthsOk, cellsFor, Config.declaredMax, Config.cellBytes]

theorem traffic_notices : NoticesOk traffic := by
  intro p
  constructor
  · intro r; cases p <;> cases r <;> decide
  · cases p <;> decide
  · cases p <;> decide
  · cases p <;> decide
  · cases p <;> decide

theorem traffic_deliveries : DeliveriesOk traffic where
  books := traffic_books
  lists := by
    intro e he
    simp only [traffic, List.mem_singleton] at he
    subst he
    exact ⟨by decide, by decide, by decide, by decide⟩
  queued := by
    intro p c id
    cases p <;> cases c <;> simp [State.holds, traffic_record, message] <;>
      simp [traffic, State.port, PerPort.get, PortState.queue, cmd, idle, PortState.reset]
  queuedOnce := by intro p c; cases p <;> cases c <;> decide
  fetching := by
    intro p id
    cases p <;> simp [State.holds, traffic_record, message] <;>
      simp [traffic, State.port, PerPort.get, cmd, idle, PortState.reset]
  fetchMode := by intro p; cases p <;> decide
  intake := by intro p; cases p <;> decide
  detached := by intro p; cases p <;> decide

theorem traffic_intake : IntakeOk traffic := by
  intro p
  cases p <;> decide

theorem traffic_settings : SettingsOk traffic where
  tick := by decide
  guard := by decide
  deflife := by decide
  slot := by intro a h; cases h
  limit := by intro p; cases p <;> decide
  bias := by intro p; cases p <;> decide
  streak := by intro p; cases p <;> decide
  lease := by intro p; cases p <;> decide

theorem traffic_counts : CountsOk traffic where
  table := traffic_table
  deflife := by decide
  slot := by intro a h; cases h
  lifetime := by simp [traffic, message]
  lease := by intro p; cases p <;> decide

theorem traffic_lines : LinesOk traffic where
  held := by intro p; cases p <;> decide
  high := by intro p; cases p <;> decide
  low := by intro p; cases p <;> decide
  portReset := by intro p; cases p <;> decide
  chipReset := by intro h; cases h
  running := by decide

theorem traffic_departed : DepartedOk traffic where
  books := traffic_books
  notAttached := by intro p; cases p <;> decide
  detached := by intro p; cases p <;> decide

/-! ### For each statement with hypotheses, a state and operands that meet them

Each theorem is named after the statement and holds one line for each clause. -/

/-- KeepsMemoryForm, KeepsPoolBalance, KeepsRecordLengths, KeepsNoticeQueues, KeepsContexts,
KeepsDeliveries, KeepsSettingRanges, KeepsCounts, KeepsLines, KeepsDepartedPorts. -/
theorem witness_invariants :
    MemoryOk traffic ∧ (PoolOk traffic ∧ BooksOk traffic) ∧ LengthsOk traffic ∧ NoticesOk traffic ∧ BooksOk traffic ∧ DeliveriesOk traffic ∧
      SettingsOk traffic ∧ IntakeOk traffic ∧ CountsOk traffic ∧ LinesOk traffic ∧ DepartedOk traffic ∧
      ∃ t, step traffic = .next t :=
  ⟨rfl, ⟨traffic_pool, traffic_books⟩, traffic_lengths, traffic_notices, traffic_books, traffic_deliveries, traffic_settings,
    traffic_intake, traffic_counts, traffic_lines, traffic_departed, _, rfl⟩

/-- The part with SHARED nearly charged, and a wait of P1 for 128 cells that cannot be charged. -/
def waiting : State :=
  { traffic with
    ports := traffic.ports.set .p1 { idle with wait := some ⟨128, .bulk⟩ }
    sharedCharged := 1000 }

/-- KeepsSpaceWaits: an armed wait, and a row that ends it: the expiry of P0's record frees 128 cells. -/
theorem witness_KeepsSpaceWaits :
    (WaitsOk waiting ∧ (waiting.port .p1).wait = some ⟨128, .bulk⟩ ∧ ∃ t, step waiting = .next t) ∧
      ∃ t, exec (.expiryOfOpenRecord 0)
          { waiting with records :=
            [(0, { message .opened .claimed with cells := List.range 128, remaining := some 0 })] } = .next t ∧
        (t.port .p1).wait = none ∧ (t.port .p1).causes.space = true := by
  refine ⟨⟨?_, rfl, _, rfl⟩, _, rfl, by decide, by decide⟩
  intro p w h
  cases p <;> cases h
  decide

/-- The part of `traffic` with a proposal that waits for P1. -/
def proposing : State := { traffic with slot := some proposal }

theorem witness_KeepsProposal : AgreementOk proposing ∧ ∃ t, step proposing = .next t := by
  refine ⟨?_, _, rfl⟩
  intro a h
  cases h
  exact ⟨by decide, by intro p; cases p <;> decide, by intro p; cases p <;> decide, by decide, by decide⟩

theorem witness_StepTakesFront :
    traffic.pending = .status .p0 :: [] ∧ State.reset.pending = [] := by decide

/-- PortStateTransitions, SerialCountsOpens, SettingsChangeByAgreement, PortItemsChange, KeepsPoolBalance, PortsIndependent
and FetchArbiter: rows that answer next, among them the ones that change what the statement is about. -/
theorem witness_rows :
    (∃ t, exec (.attach .p1) (part idle { cmd with mode := .detached } []) = .next t) ∧
      (∃ t, exec (.openMsg .p0 0) (part (got [0x21, 2, 1, 0, 0, 0, 0, 0, 0]) idle []) = .next t) ∧
      (∃ t, exec (.endorse .p1 8) { part idle (got [0x51, 0x02, 0x00]) [] with slot := some proposal } = .next t) ∧
      (∃ t, exec (.setport .p0 0) (part (got [0x13, 1, 1, 0]) idle []) = .next t) ∧
      (∃ t, exec (.reserve .p0 8) (part (got [0x20, 0, 0]) idle []) = .next t) ∧
      (Instr.port? (.status .p0) = some .p0 ∧ Port.p1 ≠ .p0 ∧ ∃ t, exec (.status .p0) (part cmd idle []) = .next t) ∧
      ∃ t, exec (.fetch .p1) (part idle { cmd with express := [9] } [(9, message .sealed .queued)]) = .next t :=
  ⟨⟨_, rfl⟩, ⟨_, rfl⟩, ⟨_, rfl⟩, ⟨_, rfl⟩, ⟨_, rfl⟩, ⟨rfl, by decide, _, rfl⟩, _, rfl⟩

/-- The part of `traffic` with P1 and record 0 as given. -/
def writing (q : PortState) (r : Record) : State :=
  { traffic with ports := traffic.ports.set .p1 q, records := [(0, r)] }

theorem writing_departed {q : PortState} {r : Record} (hm : q.mode = .attached) (hd : q.deposit = .none)
    (hb : q.backlog = []) (hs : r.state = .opened) (hp : r.source = .p0) : DepartedOk (writing q r) where
  books :=
    { table := by constructor <;> simp [writing, Config.recordCount]
      deposit := by
        intro p id
        have h : (writing q r).record? id = if 0 = id then some r else none := rfl
        cases p <;> simp [h, hs, hp] <;>
          simp [writing, traffic, State.port, PerPort.get, PerPort.set, cmd, idle, PortState.reset, hd]
      depositMode := by
        intro p
        cases p <;> simp [writing, traffic, State.attached, State.port, PerPort.get, PerPort.set, cmd, idle, PortState.reset, hm]
      backlog := by
        intro p id
        have h : (writing q r).record? id = if 0 = id then some r else none := rfl
        cases p <;> simp [h, hs, hp] <;>
          simp [writing, traffic, State.port, PerPort.get, PerPort.set, cmd, idle, PortState.reset, hb]
      backlogOnce := by
        intro p
        cases p <;> simp [writing, traffic, State.port, PerPort.get, PerPort.set, cmd, idle, PortState.reset, hb]
      backlogMode := by
        intro p
        cases p <;> simp [writing, traffic, State.port, PerPort.get, PerPort.set, cmd, idle, PortState.reset, hb]
      backlogFull := by
        intro p
        cases p <;> simp [writing, traffic, State.port, PerPort.get, PerPort.set, cmd, idle, PortState.reset, hb] }
  notAttached := by
    intro p
    cases p <;> simp [writing, traffic, State.attached, State.port, PerPort.get, PerPort.set, cmd, idle, PortState.reset, hm]
  detached := by
    intro p
    cases p <;>
      simp [writing, traffic, State.port, PerPort.get, PerPort.set, cmd, idle, PortState.reset, hm, Config.biasReset,
        Config.limitReset]

/-- PortItemsChange: a CLEAR of a cause, a SEAL that sets ARRIVAL, a CANCEL that sets DATA and TRUNC at a reader, and one
that sets NOTICE at the source and SPACE where a wait can be charged. -/
theorem witness_PortItemsChange :
    let early : Record := { message .opened .fetching with early := true }
    let wanted : Record := { message .opened .claimed with cells := [0], receipt := true }
    (DepartedOk traffic ∧ (traffic.port .p1).causes.has .notice = true ∧
        view (exec (.sealMsg .p0) traffic) (fun t => (t.port .p1).causes) =
          some ⟨true, true, false, false, false⟩) ∧
      (DepartedOk (writing { got [0x14] with causes := ⟨false, true, false, false, false⟩ } wanted) ∧
        view (exec (.clear .p1 0x02) (writing { got [0x14] with causes := ⟨false, true, false, false, false⟩ } wanted))
          (fun t => (t.port .p1).causes.has .notice) = some false) ∧
      (DepartedOk (writing { idle with intake := 1, fetch := some ⟨0, 0, true⟩ } early) ∧
        view (exec (.cancel .p0) (writing { idle with intake := 1, fetch := some ⟨0, 0, true⟩ } early))
          (fun t => (t.port .p1).causes) = some ⟨false, false, false, true, true⟩) ∧
      (DepartedOk (writing { idle with intake := 1, wait := some ⟨128, .bulk⟩ } wanted) ∧
        view (exec (.cancel .p0) (writing { idle with intake := 1, wait := some ⟨128, .bulk⟩ } wanted))
          (fun t => ((t.port .p0).causes.has .notice, (t.port .p1).causes.has .space)) = some (true, true)) :=
  ⟨⟨traffic_departed, by decide, by decide⟩, ⟨writing_departed rfl rfl rfl rfl rfl, by decide⟩,
    ⟨writing_departed rfl rfl rfl rfl rfl, by decide⟩, ⟨writing_departed rfl rfl rfl rfl rfl, by decide⟩⟩

/-- Chip reset, and a PUT data byte, which writes. -/
theorem witness_PayloadWrittenByPutOnly :
    (∃ t, exec .chipReset (part idle idle []) = .next t) ∧
      ∃ t, exec (.putDataByte .p0 7)
        (part (putting ⟨1, .ok, 0, false, 0⟩ (.opened 9)) idle [(9, message .opened .claimed)]) = .next t :=
  ⟨⟨_, rfl⟩, _, rfl⟩

/-- IRQ of P1 is asserted, and that of P0 is not. -/
theorem witness_InterruptLevel :
    LinesOk traffic ∧ DepartedOk traffic ∧ traffic.irqAsserted .p1 = true ∧ traffic.irqAsserted .p0 = false :=
  ⟨traffic_lines, traffic_departed, by decide, by decide⟩

/-- Ports that are not ATTACHED, at the command byte and after each command with arguments. -/
theorem witness_GatedCommands :
    ((part { cmd with mode := .teardown } idle []).attached .p0 = false ∧
        (part { cmd with mode := .teardown } idle []).inCommand .p0) ∧
      ∀ l ∈ ([[0x13, 1, 2, 3], [0x14], [0x20, 1, 2], [0x21, 1, 2, 3, 4, 5, 6, 7, 8], [0x31], [0x32], [0x33],
          [0x50, 1, 2], [0x51, 1, 2], [0x52], [0x60, 1], [0x60, 2], [0x60, 3], [0x60, 0], [0x60, 4]] : List (List Byte)),
        (part { got l with mode := .detached } idle []).attached .p0 = false ∧
          (part { got l with mode := .detached } idle []).inArgument .p0 (l.headD 0) l.tail := by decide

theorem witness_StatusReports : (part cmd idle []).inCommand .p0 := by decide

theorem witness_AttachEnters :
    ((part { cmd with mode := .detached } idle []).inCommand .p0 ∧
        ((part { cmd with mode := .detached } idle []).port .p0).mode = .detached) ∧
      (part cmd idle []).inCommand .p0 ∧ ((part cmd idle []).port .p0).mode ≠ .detached := by decide

theorem witness_DetachStartsTeardown : BooksOk traffic ∧ traffic.inCommand .p0 ∧ traffic.attached .p0 = true :=
  ⟨traffic_books, by decide, by decide⟩

/-- The bounds of the three checked arguments, on either side. -/
theorem witness_SetportSets :
    (∀ l ∈ ([[0x13, 1, 1, 0], [0x13, 128, 15, 255]] : List (List Byte)),
        (part (got l) idle []).inArgument .p0 0x13 l.tail ∧ (part (got l) idle []).attached .p0 = true) ∧
      (1 ≤ (128 : Byte).toNat ∧ (128 : Byte).toNat ≤ 128 ∧ 1 ≤ (15 : Byte).toNat ∧ (15 : Byte).toNat ≤ 15 ∧
        (31 : Byte).toNat < 32) ∧
      ¬ (129 : Byte).toNat ≤ 128 ∧ ¬ (16 : Byte).toNat ≤ 15 ∧ ¬ (32 : Byte).toNat < 32 ∧ ¬ 1 ≤ (0 : Byte).toNat ∧
      (part { got [0x13, 1, 1, 0] with mode := .detached } idle []).attached .p0 = false := by decide

theorem witness_ClearClears :
    (part (got [0x14]) idle []).inArgument .p0 0x14 [] ∧ (part (got [0x14]) idle []).attached .p0 = true ∧
      (0x9F : Byte).getLsbD 5 = false ∧ (0x9F : Byte).getLsbD 6 = false ∧ (0x20 : Byte).getLsbD 5 = true ∧
      (0x40 : Byte).getLsbD 6 = true ∧
      (part { got [0x14] with mode := .teardown } idle []).inArgument .p0 0x14 [] ∧
      (part { got [0x14] with mode := .teardown } idle []).attached .p0 = false := by decide

/-- The part of `traffic` with P0 at the last byte of a RESERVE. -/
def reserving (hi : Byte) : State :=
  traffic.setPort .p0 { traffic.port .p0 with txn := { Txn.quiet .argument with collected := [0x20, 0x01, hi] } }

/-- A raise to 256 and a request of 257, a request at the current size, an invalid class, and a port not ATTACHED. -/
theorem witness_ReserveGrants :
    (PoolOk (reserving 1) ∧ (reserving 1).inArgument .p0 0x20 [0x01, 1] ∧ (reserving 1).attached .p0 = true ∧
        (1 : Byte).toNat * 256 + (0 : Byte).toNat ≤ 256 ∧ 256 < (1 : Byte).toNat * 256 + (1 : Byte).toNat ∧
        (((reserving 1).port .p0).reserve .bulk).size < 256) ∧
      (PoolOk (reserving 0) ∧ (0 : Byte).toNat * 256 + (0 : Byte).toNat ≤ (((reserving 0).port .p0).reserve .bulk).size) ∧
      ((part (got [0x20, 0x02, 0]) idle []).inArgument .p0 0x20 [0x02, 0] ∧ (0x02 : Byte) ≠ 0x00 ∧ (0x02 : Byte) ≠ 0x01) ∧
      (part { got [0x20, 0, 0] with mode := .detached } idle []).inArgument .p0 0x20 [0, 0] ∧
      (part { got [0x20, 0, 0] with mode := .detached } idle []).attached .p0 = false := by
  have h : ∀ hi, PoolOk (reserving hi) := fun hi =>
    { table := traffic_table
      cells := traffic_pool.cells
      account := traffic_pool.account
      reporting := traffic_pool.reporting
      reserves := by intro p c; cases p; exacts [traffic_pool.reserves .p0 c, traffic_pool.reserves .p1 c, traffic_pool.reserves .p2 c,
        traffic_pool.reserves .p3 c]
      shared := traffic_pool.shared
      reserveRoom := by intro p c; cases p; exacts [traffic_pool.reserveRoom .p0 c, traffic_pool.reserveRoom .p1 c, traffic_pool.reserveRoom .p2 c,
        traffic_pool.reserveRoom .p3 c]
      sharedRoom := traffic_pool.sharedRoom
      sum := traffic_pool.sum
      perPort := by intro p; cases p; exacts [traffic_pool.perPort .p0, traffic_pool.perPort .p1, traffic_pool.perPort .p2,
        traffic_pool.perPort .p3] }
  exact ⟨⟨h 1, by decide, by decide, by decide, by decide, by decide⟩, ⟨h 0, by decide⟩, by decide, by decide, by decide⟩

/-- The nine argument bytes of an OPEN: destinations, class, flags, declared length; no lifetime and tag 0. -/
def opening (dests cls flags hi lo : Byte) : PortState := got [0x21, dests, cls, flags, hi, lo, 0, 0, 0]

/-- A record of P0, or of P1, at every id of a list. -/
def held (src : Port) (ids : List Nat) : List (Nat × Record) :=
  ids.map fun id => (id, { message .sealed .queued with source := src })

theorem held_record {src : Port} {id : Nat} : ∀ {l : List Nat}, id ∈ l → lookupRecord id (held src l) ≠ none
  | k :: l, h => by
    by_cases hk : k = id
    · simp [held, lookupRecord, hk]
    · simpa [held, lookupRecord, hk] using held_record (src := src) (l := l) (by simpa [Ne.symm hk] using h)

/-- P0 has an OPEN with these argument bytes before the last one in progress, and is ATTACHED. -/
abbrev Opening (s : State) (args : List Byte) : Prop :=
  s.attached .p0 = true ∧ args.length = 8 ∧ s.inArgument .p0 0x21 args

/-- The first check of OPEN passes. -/
abbrev Free (s : State) : Prop := ∀ id, (s.port .p0).deposit ≠ .opened id

/-- The second check of OPEN refuses the arguments. -/
abbrev OutOfRange (a : OpenArgs) : Prop := (∀ q, a.dests.get q = false) ∨ a.cls = none ∨ 4096 < a.declared

theorem inRange_of {a : OpenArgs} (q : Port) (hd : a.dests.get q = true) (hc : a.cls ≠ none) (hl : a.declared ≤ 4096) :
    ¬ OutOfRange a := by
  rintro (h | h | h)
  · simp [h q] at hd
  · exact hc h
  · exact absurd h (Nat.not_lt.2 hl)

/-- How many records count on the quota of P0. -/
abbrev quota (s : State) : Nat := (s.records.filter fun e => e.2.source == .p0).length

/-- The reason of the table of R50 for port `q`. -/
abbrev reason (s : State) (a : OpenArgs) (q : Port) : Reason :=
  if a.dests.get q = false then .unnamed
  else if q = .p0 then .self
  else if s.attached q = false then .notAttached
  else if (s.port q).limit ≤ (s.port q).intake then .limit
  else .admitted

/-- BUSY, and each of the three grounds of RANGE, the greatest declared length beside them. -/
theorem witness_OpenRefused :
    (Opening (part { opening 2 1 0 0 1 with deposit := .opened 9 } idle []) [2, 1, 0, 0, 1, 0, 0, 0] ∧
        ((part { opening 2 1 0 0 1 with deposit := .opened 9 } idle []).port .p0).deposit = .opened 9) ∧
      (∀ x ∈ ([(0xF0, 1, 0, 1), (2, 2, 0, 1), (2, 1, 0x10, 1)] : List (Byte × Byte × Byte × Byte)),
        Opening (part (opening x.1 x.2.1 0 x.2.2.1 x.2.2.2) idle []) [x.1, x.2.1, 0, x.2.2.1, x.2.2.2, 0, 0, 0] ∧
          Free (part (opening x.1 x.2.1 0 x.2.2.1 x.2.2.2) idle []) ∧
          OutOfRange (openArgsOf [x.1, x.2.1, 0, x.2.2.1, x.2.2.2, 0, 0, 0, 0])) ∧
      ¬ OutOfRange (openArgsOf [2, 1, 0, 0x10, 0, 0, 0, 0, 0]) := by
  refine ⟨by decide, ?_, inRange_of .p1 (by decide) (by decide) (by decide)⟩
  intro x hx
  simp only [List.mem_cons, List.not_mem_nil, or_false] at hx
  obtain rfl | rfl | rfl := hx
  · exact ⟨by decide, (fun _ h => nomatch h), .inl fun q => by cases q <;> decide⟩
  · exact ⟨by decide, (fun _ h => nomatch h), .inr (.inl (by decide))⟩
  · exact ⟨by decide, (fun _ h => nomatch h), .inr (.inr (by decide))⟩

/-- The arguments of the further witnesses are in range. -/
theorem opening_inRange : ¬ OutOfRange (openArgsOf [2, 1, 0, 0x10, 0, 0, 0, 0, 0]) := witness_OpenRefused.2.2

/-- QUOTA: 96 records of P0. -/
theorem witness_OpenRefused_quota :
    let s := part (opening 2 1 0 0x10 0) idle (held .p0 (List.range 96))
    Opening s [2, 1, 0, 0x10, 0, 0, 0, 0] ∧ Free s ∧ ¬ OutOfRange (openArgsOf [2, 1, 0, 0x10, 0, 0, 0, 0, 0]) ∧
      96 ≤ quota s :=
  ⟨by decide, (fun _ h => nomatch h), opening_inRange, by decide⟩

/-- TABLE: 256 records, none of them of P0. -/
theorem witness_OpenRefused_table :
    let s := part (opening 2 1 0 0x10 0) idle (held .p1 (List.range 256))
    Opening s [2, 1, 0, 0x10, 0, 0, 0, 0] ∧ Free s ∧ ¬ OutOfRange (openArgsOf [2, 1, 0, 0x10, 0, 0, 0, 0, 0]) ∧
      ¬ 96 ≤ quota s ∧ ∀ id, id < 256 → s.record? id ≠ none :=
  ⟨by decide, (fun _ h => nomatch h), opening_inRange, by decide, fun _ h => held_record (List.mem_range.2 h)⟩

/-- FULL: P1 alone is named and stands at its limit; NODEST: P3 alone is named and is not ATTACHED. P0 has 95 records. -/
theorem witness_OpenRefused_unadmitted :
    (let s := part (opening 2 1 0 0x10 0) { idle with limit := 8, intake := 8 } (held .p0 (List.range 95))
     let a := openArgsOf [2, 1, 0, 0x10, 0, 0, 0, 0, 0]
     Opening s [2, 1, 0, 0x10, 0, 0, 0, 0] ∧ Free s ∧ ¬ OutOfRange a ∧ ¬ 96 ≤ quota s ∧ s.record? 95 = none ∧
        (∀ q, reason s a q ≠ .admitted) ∧ ∀ q, a.dests.get q = true → reason s a q = .limit) ∧
      let s := part (opening 8 1 0 0x10 0) idle (held .p0 (List.range 95))
      let a := openArgsOf [8, 1, 0, 0x10, 0, 0, 0, 0, 0]
      Opening s [8, 1, 0, 0x10, 0, 0, 0, 0] ∧ Free s ∧ ¬ OutOfRange a ∧ ¬ 96 ≤ quota s ∧ s.record? 95 = none ∧
        (∀ q, reason s a q ≠ .admitted) ∧ ¬ ∀ q, a.dests.get q = true → reason s a q = .limit := by
  refine ⟨⟨by decide, (fun _ h => nomatch h), opening_inRange, by decide, by decide, ?_, ?_⟩,
    by decide, (fun _ h => nomatch h), inRange_of .p3 (by decide) (by decide) (by decide), by decide, by decide, ?_,
    fun h => absurd (h .p3 (by decide)) (by decide)⟩
  all_goals intro q; cases q <;> decide

/-- NOSPACE: 128 BULK cells, with and without the wait flag, where 143 are free in SHARED and the guard is 16; one more free
cell, and they can be charged. -/
theorem witness_OpenRefused_space :
    ∀ flags ∈ ([0, 4] : List Byte),
      let s : Nat → State := fun n => { part (opening 2 1 flags 0x10 0) idle [] with sharedCharged := n }
      let a := openArgsOf [2, 1, flags, 0x10, 0, 0, 0, 0, 0]
      Opening (s 881) [2, 1, flags, 0x10, 0, 0, 0, 0] ∧ Free (s 881) ∧ ¬ OutOfRange a ∧ ¬ 96 ≤ quota (s 881) ∧
        (s 881).record? 0 = none ∧ reason (s 881) a .p1 = .admitted ∧ a.cls = some .bulk ∧
        0 < (a.declared + 31) / 32 ∧ ¬ (s 881).canCharge .p0 .bulk ((a.declared + 31) / 32) ∧
        (s 880).canCharge .p0 .bulk ((a.declared + 31) / 32) := by
  intro flags hf
  simp only [List.mem_cons, List.not_mem_nil, or_false] at hf
  obtain rfl | rfl := hf <;>
    exact ⟨by decide, (fun _ h => nomatch h), inRange_of .p1 (by decide) (by decide) (by decide),
      by decide, by decide, by decide, by decide, by decide, by decide, by decide⟩

/-- The hypotheses of OpenCompletes but the last: P1 is admitted, and `id` is the lowest FREE record. -/
abbrev Opens (s : State) (args : List Byte) (id : Nat) : Prop :=
  Opening s args ∧ Free s ∧ (openArgsOf (args ++ [0])).cls = some .bulk ∧ (openArgsOf (args ++ [0])).declared ≤ 4096 ∧
    quota s < 96 ∧ id < 256 ∧ s.record? id = none ∧ (∀ j, j < id → s.record? j ≠ none) ∧
    ((openArgsOf (args ++ [0])).dests.get .p1 && Port.p1 != .p0 && s.attached .p1 &&
      decide ((s.port .p1).intake < (s.port .p1).limit)) = true

/-- No cells, with 255 records held and P1 one below its limit; one cell from the reserve of P0; one cell from SHARED, where
95 records of P0 stand. -/
theorem witness_OpenCompletes :
    (let s := part (opening 2 1 1 0 0) { idle with limit := 8, intake := 7 } (held .p1 (List.range 255))
     Opens s [2, 1, 1, 0, 0, 0, 0, 0] 255 ∧ ((openArgsOf [2, 1, 1, 0, 0, 0, 0, 0, 0]).declared + 31) / 32 = 0) ∧
      (let s := part { opening 2 1 0 0 1 with resBulk := ⟨1, 0⟩ } idle []
       let n := ((openArgsOf [2, 1, 0, 0, 1, 0, 0, 0, 0]).declared + 31) / 32
       Opens s [2, 1, 0, 0, 1, 0, 0, 0] 0 ∧ 0 < n ∧
          n ≤ ((s.port .p0).reserve .bulk).size - ((s.port .p0).reserve .bulk).charged) ∧
      let s := part (opening 2 1 1 0 1) idle (held .p0 (List.range 95))
      let n := ((openArgsOf [2, 1, 1, 0, 1, 0, 0, 0, 0]).declared + 31) / 32
      Opens s [2, 1, 1, 0, 1, 0, 0, 0] 95 ∧ 0 < n ∧
        ¬ n ≤ ((s.port .p0).reserve .bulk).size - ((s.port .p0).reserve .bulk).charged ∧ s.canCharge .p0 .bulk n := by
  refine ⟨⟨⟨by decide, (fun _ h => nomatch h), by decide, by decide, by decide, by decide, by decide,
      fun _ h => held_record (List.mem_range.2 h), by decide⟩, by decide⟩,
    ⟨⟨by decide, (fun _ h => nomatch h), by decide, by decide, by decide, by decide, by decide,
      (fun _ h => absurd h (Nat.not_lt_zero _)), by decide⟩, by decide, by decide⟩,
    ⟨by decide, (fun _ h => nomatch h), by decide, by decide, by decide, by decide, by decide,
      fun _ h => held_record (List.mem_range.2 h), by decide⟩, by decide, by decide, by decide⟩

theorem witness_PutTaken :
    (part (got [0x22]) idle []).inArgument .p0 0x22 [] ∧ (part (got [0x22]) idle []).attached .p0 = true ∧
      ((part (got [0x22]) idle []).port .p0).deposit = .none ∧
      ((part { got [0x22] with deposit := .lapsed 3 4096 } idle []).port .p0).deposit = .lapsed 3 4096 ∧
      ((part { got [0x22] with deposit := .opened 255 } idle []).port .p0).deposit = .opened 255 ∧
      (part { got [0x22] with mode := .teardown } idle []).attached .p0 = false := by decide

/-- The last byte of the declared length, and the first one beyond it; a lapse; a PUT refused at its take; a reader that
awaits the byte. -/
theorem witness_PutDataByteTaken :
    let s := fun n => part (putting ⟨1, .ok, 0, false, 0⟩ (.opened 9)) { idle with fetch := some ⟨9, n, true⟩ }
      [(9, { message .opened .fetching with deposited := n })]
    ((s 19).port .p0).txn.phase = .data ∧ ((s 19).port .p0).txn.put.status = .ok ∧
      ((s 19).port .p0).deposit = .opened 9 ∧ ((s 19).record? 9).map Record.deposited = some 19 ∧
      ((s 19).record? 9).map Record.declared = some 20 ∧ payloadAddr [5] 19 = some 179 ∧
      ((s 19).port .p1).fetch = some ⟨9, 19, true⟩ ∧ (s 19).attached .p1 = true ∧
      ((s 20).record? 9).map Record.deposited = some 20 ∧
      ((part (putting ⟨2, .ok, 1, false, 4⟩ (.lapsed 9 4)) idle []).port .p0).deposit = .lapsed 9 4 ∧
      ((part (putting ⟨2, .noopen, 0, false, 0⟩ .none) idle []).port .p0).txn.put.status ≠ .ok := by decide

theorem witness_NothingToEnd :
    (part cmd idle []).inCommand .p0 ∧ (part cmd idle []).attached .p0 = true ∧
      ((part cmd idle []).port .p0).deposit = .none ∧
      ((part { cmd with deposit := .lapsed 9 4 } idle []).port .p0).deposit = .lapsed 9 4 := by decide

/-- SealSeals and CancelAborts: in `traffic` the delivery of record 0 waits at P1. -/
theorem witness_SealSeals :
    traffic.inCommand .p0 ∧ traffic.attached .p0 = true ∧ (traffic.port .p0).deposit = .opened 0 ∧
      traffic.record? 0 = some { message .opened .claimed with cells := [0] } ∧
      ((message .opened .claimed).deliveries.map Entry.port).Nodup ∧ traffic.attached .p1 = true := by decide

/-- SealSeals and CancelAborts: an early message at a reader that awaits data, and one whose delivery has ended. -/
theorem witness_CancelAborts :
    (∀ st ∈ [Stage.fetching, Stage.done .accepted],
      let s := part { cmd with deposit := .opened 9 } { idle with fetch := some ⟨9, 0, true⟩ } [(9, message .opened st)]
      s.inCommand .p0 ∧ s.attached .p0 = true ∧ (s.port .p0).deposit = .opened 9 ∧
        s.record? 9 = some (message .opened st) ∧ ((message .opened st).deliveries.map Entry.port).Nodup ∧
        (s.port .p1).fetch = some ⟨9, 0, true⟩ ∧ s.attached .p1 = true) ∧
      (∀ e ∈ (message .opened (.done .accepted)).deliveries, e.stage.isDone = true) ∧
      ∃ e ∈ (message .opened .fetching).deliveries, e.stage.isDone = false := by decide

/-- The streak just below the bias and at it, each queue empty, and both. -/
theorem witness_FetchArbiter :
    let s := fun e b n => part idle { cmd with express := e, bulk := b, streak := n, bias := 4 }
      [(5, message .sealed .queued), (9, message .sealed .queued)]
    (s [9] [5] 3).inCommand .p1 ∧ (s [9] [5] 3).attached .p1 = true ∧ ((s [9] [5] 3).port .p1).fetch = none ∧
      ((s [9] [5] 3).port .p1).streak < ((s [9] [5] 3).port .p1).bias ∧
      ¬ ((s [9] [5] 4).port .p1).streak < ((s [9] [5] 4).port .p1).bias ∧
      (s [9] [5] 3).record? 9 = some (message .sealed .queued) ∧
      (s [9] [5] 3).record? 5 = some (message .sealed .queued) ∧ ((s [9] [] 15).port .p1).bulk = [] ∧
      ((s [] [5] 4).port .p1).express = [] ∧ ((s [] [] 4).port .p1).bulk = [] ∧
      ((part idle { cmd with fetch := some ⟨9, 0, false⟩ } []).port .p1).fetch = some ⟨9, 0, false⟩ := by decide

/-- The five rows of the table of GET, no context, and a port not ATTACHED. -/
theorem witness_GetDecides :
    (∀ x ∈ [(RecState.aborted, 0), (.opened, 3), (.opened, 2), (.sealed, 3), (.sealed, 2)],
      let s := part idle { got [0x31] with fetch := some ⟨9, x.2, false⟩ } [(9, message x.1 .fetching)]
      s.inArgument .p1 0x31 [] ∧ s.attached .p1 = true ∧ (s.port .p1).fetch = some ⟨9, x.2, false⟩ ∧
        s.record? 9 = some (message x.1 .fetching) ∧ x.1 ≠ .reporting) ∧
      ((part idle (got [0x31]) []).port .p1).fetch = none ∧
      (part idle { got [0x31] with mode := .detached } []).attached .p1 = false := by decide

theorem witness_PayloadByteShifted :
    let s := { part idle { cmd with
        fetch := some ⟨9, 2, false⟩, txn := { Txn.quiet .reply with reply := [0, 0, 1], pos := 3, payload := 1 } }
        [(9, message .sealed .fetching)] with mem := [(162, 0x22)] }
    (s.port .p1).txn.phase = .reply ∧ (s.port .p1).txn.reply.length ≤ (s.port .p1).txn.pos ∧
      0 < (s.port .p1).txn.payload ∧ (s.port .p1).fetch = some ⟨9, 2, false⟩ ∧
      s.record? 9 = some (message .sealed .fetching) ∧ payloadAddr [5] 2 = some 162 ∧
      Memory.read 162 s.mem = some 0x22 := by decide

/-- PayloadByteShifted, the other clauses: each kind of phase, and a byte that completes in each. -/
theorem witness_dataOut :
    ((part idle idle []).port .p0).txn.phase = .idle ∧ ((part cmd idle []).port .p0).txn.phase = .command ∧
      ((part (got [0x14]) idle []).port .p0).txn.phase = .argument ∧
      (∀ n ∈ [0, 1], let s := part { cmd with txn := { Txn.quiet .reply with reply := [0x12], pos := n } } idle []
        (s.port .p0).txn.phase = .reply ∧ (view (exec (.replyByteShiftedOut .p0) s) fun t => (t.port .p0).txn.sdo) =
          some (s.dataOut .p0)) ∧
      (view (exec (.status .p0) (part cmd idle [])) fun t => (t.port .p0).txn.sdo) =
        some ((part cmd idle []).dataOut .p0) ∧
      (view (exec (.clear .p0 0) (part (got [0x14]) idle [])) fun t => (t.port .p0).txn.sdo) = some (some 0) := by
  decide

/-- The part with P1 at the last byte of a RELEASE or a FORWARD of record 9. -/
def reading (code : Byte) (r : Record) : State :=
  part idle { got [code] with intake := 1, fetch := some ⟨9, 0, false⟩ } [(9, r)]

/-- ReleaseEnds and DeferReturns: each row of the table of R83, and the two refusals. -/
theorem witness_ReleaseEnds :
    (∀ r ∈ [message .aborted .fetching, message .opened .fetching, message .sealed .fetching,
        { message .sealed .fetching with expired := true }],
      (reading 0x32 r).attached .p1 = true ∧ (reading 0x32 r).inArgument .p1 0x32 [] ∧
        ((reading 0x32 r).port .p1).fetch = some ⟨9, 0, false⟩ ∧ (reading 0x32 r).record? 9 = some r ∧
        (r.deliveries.map Entry.port).Nodup ∧ r.state ≠ .reporting ∧
        ∃ e ∈ r.deliveries, e.port = .p1 ∧ e.stage = .fetching) ∧
      (message .aborted .fetching).releaseOutcome 0x03 = some .truncated ∧
      (message .opened .fetching).releaseOutcome 0x01 = some .accepted ∧
      (message .sealed .fetching).releaseOutcome 0x02 = some .refused ∧
      ({ message .sealed .fetching with expired := true } : Record).releaseOutcome 0x03 = some .expired ∧
      (message .sealed .fetching).releaseOutcome 0x03 = none ∧ (message .opened .fetching).releaseOutcome 0x03 = none ∧
      (part idle (got [0x32]) []).inArgument .p1 0x32 [] ∧ ((part idle (got [0x32]) []).port .p1).fetch = none ∧
      (0x00 : Byte) ≠ 0x01 ∧ (0x00 : Byte) ≠ 0x02 ∧ (0x00 : Byte) ≠ 0x03 := by decide

/-- P1 has a FORWARD with its mask in progress, is ATTACHED, and has fetched record 9, which is `r`. -/
abbrev Forwarding (s : State) (r : Record) : Prop :=
  s.attached .p1 = true ∧ s.inArgument .p1 0x33 [] ∧ (s.port .p1).fetch = some ⟨9, 0, false⟩ ∧ s.record? 9 = some r

/-- The mask names port `q`. -/
abbrev named (m : Byte) (q : Port) : Bool := m.getLsbD (portNumber q)

/-- The reason of the table of R87 for port `q`. -/
abbrev forwardReason (s : State) (r : Record) (m : Byte) (q : Port) : Reason :=
  if named m q = false then .unnamed
  else if q = .p1 then .self
  else if r.deliveries.any fun e => e.port == q then .present
  else if s.attached q = false then .notAttached
  else if (s.port q).limit ≤ (s.port q).intake then .limit
  else .admitted

/-- In the order of the clauses: NOFETCH; RANGE; STATE for a record OPEN and one ABORTED; EXPIRED; FULL, P0 named at its
limit and P1 itself; NODEST, P3 named and not ATTACHED. -/
theorem witness_ForwardRefused :
    ((part idle (got [0x33]) []).attached .p1 = true ∧ (part idle (got [0x33]) []).inArgument .p1 0x33 [] ∧
        ((part idle (got [0x33]) []).port .p1).fetch = none) ∧
      (Forwarding (reading 0x33 (message .sealed .fetching)) (message .sealed .fetching) ∧
        ∀ q, named 0xF0 q = false) ∧
      (∀ st ∈ [RecState.opened, .aborted],
        Forwarding (reading 0x33 (message st .fetching)) (message st .fetching) ∧ named 0x04 .p2 = true ∧
          (message st .fetching).state ≠ .sealed) ∧
      (let r : Record := { message .sealed .fetching with expired := true }
       Forwarding (reading 0x33 r) r ∧ named 0x04 .p2 = true ∧ r.state = .sealed ∧ r.expired = true) ∧
      (let r := message .sealed .fetching
       let s := (reading 0x33 r).setPort .p0 { idle with intake := 64 }
       Forwarding s r ∧ r.state = .sealed ∧ r.expired = false ∧ (∀ q, forwardReason s r 0x03 q ≠ .admitted) ∧
          (named 0x03 .p0 = true ∧ Port.p0 ≠ .p1) ∧
          ∀ q, named 0x03 q = true → q ≠ .p1 → forwardReason s r 0x03 q = .limit) ∧
      let r := message .sealed .fetching
      let s := reading 0x33 r
      Forwarding s r ∧ named 0x08 .p3 = true ∧ r.state = .sealed ∧ r.expired = false ∧
        (∀ q, forwardReason s r 0x08 q ≠ .admitted) ∧ Port.p3 ≠ .p1 ∧ forwardReason s r 0x08 .p3 ≠ .limit := by
  refine ⟨by decide, ⟨by decide, ?_⟩, by decide, by decide, ⟨by decide, by decide, by decide, ?_, by decide, ?_⟩,
    by decide, by decide, by decide, by decide, ?_, by decide, by decide⟩
  all_goals intro q; cases q <;> decide

/-- ForwardCompletes: P2 is named, ATTACHED, below its limit, and not in the list. -/
theorem witness_ForwardCompletes :
    let s := reading 0x33 (message .sealed .fetching)
    s.attached .p1 = true ∧ s.inArgument .p1 0x33 [] ∧ s.record? 9 = some (message .sealed .fetching) ∧
      (message .sealed .fetching).state = .sealed ∧ (message .sealed .fetching).expired = false ∧
      (0x04 : Byte).getLsbD (portNumber .p2) = true ∧ Port.p2 ≠ .p1 ∧
      ((message .sealed .fetching).deliveries.any fun e => e.port == .p2) = false ∧ s.attached .p2 = true ∧
      (s.port .p2).intake < (s.port .p2).limit := by decide

/-- P0 with `n` notices, the first about P3, and record 9 REPORTING in its backlog. -/
def backlogged (n : Nat) : State :=
  part { cmd with backlog := [9], notices := List.replicate n (.peer .p3 false 1) } idle
    [(9, { message .reporting (.done .accepted) with cells := [], account := none })]

/-- ReceiptPosted and NoticeRead at the threshold of 28 notices, without a backlog, and with an empty queue. -/
theorem witness_NoticeRead :
    (backlogged 27).attached .p0 = true ∧ (backlogged 27).inCommand .p0 ∧ ((backlogged 27).port .p0).backlog = [9] ∧
      ((backlogged 27).port .p0).notices.length < 28 ∧ 28 ≤ ((backlogged 28).port .p0).notices.length ∧
      ((backlogged 28).port .p0).notices = .peer .p3 false 1 :: List.replicate 27 (.peer .p3 false 1) ∧
      (List.replicate 27 (Notice.peer .p3 false 1)).length < 28 ∧
      28 ≤ (List.replicate 28 (Notice.peer .p3 false 1)).length ∧
      (backlogged 27).record? 9 =
        some { message .reporting (.done .accepted) with cells := [], account := none } ∧
      ((part cmd idle []).port .p0).backlog = [] ∧ ((part cmd idle []).port .p0).notices = [] := by decide

/-- BUSY, RANGE above each range, a proposal with peers, one of a lone port, and a port not ATTACHED. -/
theorem witness_ProposeFills :
    let lone : State := { part (got [0x50, 0x01, 0x00]) PortState.reset [] with
      ports := ⟨got [0x50, 0x01, 0x00], PortState.reset, PortState.reset, PortState.reset⟩ }
    ((part (got [0x50, 0x01, 0x00]) idle []).inArgument .p0 0x50 [0x01, 0x00] ∧
        (part (got [0x50, 0x01, 0x00]) idle []).attached .p0 = true ∧
        (part (got [0x50, 0x01, 0x00]) idle []).slot = none ∧
        (Port.p1 ≠ .p0 ∧ (part (got [0x50, 0x01, 0x00]) idle []).attached .p1 = true)) ∧
      ((0x00 : Byte).toNat * 256 + (0x03 : Byte).toNat ≤ 3 ∧ ¬ (0x00 : Byte).toNat * 256 + (0x04 : Byte).toNat ≤ 3 ∧
        (0x00 : Byte).toNat * 256 + (0x40 : Byte).toNat ≤ 64 ∧ ¬ (0x00 : Byte).toNat * 256 + (0x41 : Byte).toNat ≤ 64) ∧
      (lone.inArgument .p0 0x50 [0x01, 0x00] ∧ lone.attached .p0 = true ∧ lone.slot = none ∧
        ∀ q, lone.attached q = true → q = .p0) ∧
      proposing.slot = some proposal ∧
      (part { got [0x50, 0x01, 0x00] with mode := .detached } idle []).attached .p0 = false := by
  refine ⟨by decide, by decide, ⟨by decide, by decide, by decide, by intro q; cases q <;> decide⟩, by decide, by decide⟩

/-- EndorseCounts and DeclineEnds: each refusal, an endorser again, one that leaves the set incomplete, and the last. -/
theorem witness_EndorseCounts :
    let three : Proposal := { proposal with required := ⟨true, true, true, false⟩ }
    let at1 (x : Proposal) : State := { part idle (got [0x51, 0x02, 0x00]) [] with slot := some x }
    ((at1 proposal).inArgument .p1 0x51 [0x02, 0x00] ∧ (at1 proposal).attached .p1 = true ∧
        (0x02 : Byte) = proposal.setting.code ∧ (0x00 : Byte).toNat * 256 + (0x08 : Byte).toNat = proposal.value ∧
        ¬ (0x00 : Byte).toNat * 256 + (0x09 : Byte).toNat = proposal.value ∧
        proposal.required.get .p1 = true ∧ proposal.endorsers.get .p1 = false ∧
        (proposal.endorsers.set .p1 true) = proposal.required ∧ three.required.get .p1 = true ∧
        (three.endorsers.set .p1 true) ≠ three.required) ∧
      (proposal.required.get .p2 = false ∧ proposal.endorsers.get .p0 = true ∧ proposal.required.get .p0 = true) ∧
      (part idle (got [0x51, 0x02, 0x00]) []).slot = none ∧ (0x01 : Byte) ≠ proposal.setting.code ∧
      ({ part idle (got [0x52]) [] with slot := some proposal } : State).inArgument .p1 0x52 [] ∧
      (part idle { got [0x52] with mode := .teardown } []).attached .p1 = false := by decide

/-- InspectMessageReports and InspectOtherReports: a FREE record, one of the port's own, one not open to it, the other
kinds, and the kind codes beside the three. -/
theorem witness_Inspect :
    (∀ k ∈ ([0x00, 0x01, 0x02, 0x03, 0x04] : List Byte),
      (part (got [0x60, k]) idle []).attached .p0 = true ∧ (part (got [0x60, k]) idle []).inArgument .p0 0x60 [k]) ∧
      (part (got [0x60, 0x01]) idle [(9, message .sealed .queued)]).record? (0xFF : Byte).toNat = none ∧
      (part (got [0x60, 0x01]) idle [(9, message .sealed .queued)]).record? (0x09 : Byte).toNat =
        some (message .sealed .queued) ∧
      (message .sealed .queued).source = .p0 ∧
      (¬ ((message .sealed .queued).source = .p2 ∨ ∃ e ∈ (message .sealed .queued).deliveries, e.port = .p2)) ∧
      ∃ e ∈ (message .sealed .queued).deliveries, e.port = .p1 := by decide

/-- A port outside a transaction; the first and the last but one argument byte; a byte that names no command; a reply in
progress and one at its end. -/
theorem witness_BytesFramed :
    ((part idle idle []).port .p0).txn.phase = .idle ∧ Instr.port? (.status .p0) = some .p0 ∧
      (part cmd idle []).inCommand .p0 ∧ (part (got [0x21, 0, 0, 0, 0, 0, 0, 0]) idle []).inArgument .p0 0x21
        [0, 0, 0, 0, 0, 0, 0] ∧ ([0, 0, 0, 0, 0, 0, 0] : List Byte).length + 1 < 9 ∧
      ((0x21 : Byte), 9) ∈ ([(0x20, 3), (0x21, 9)] : List (Byte × Nat)) ∧
      (0x15 : Byte) ∉ ([0x13, 0x14, 0x20, 0x21, 0x22, 0x31, 0x32, 0x33, 0x50, 0x51, 0x52, 0x60] : List Byte) ∧
      (0x15 : Byte) ∉ ([0x10, 0x11, 0x12, 0x23, 0x24, 0x30, 0x40] : List Byte) ∧
      ((part { cmd with txn := { Txn.quiet .reply with reply := [0x12] } } idle []).port .p0).txn.reply[0]? =
        some 0x12 ∧
      ((part { cmd with txn := { Txn.quiet .ignore with reply := [0x1F], pos := 1 } } idle []).port .p0).txn.payload = 0 ∧
      ((part { cmd with txn := { Txn.quiet .ignore with reply := [0x1F], pos := 1 } } idle []).port .p0).txn.phase =
        .ignore := by decide

/-- BytesFramed, the clauses on rows: a command byte, a byte before the last and a last one, each INSPECT kind, and rows
refused where the byte is another's. -/
theorem witness_byteRow :
    (part cmd idle []).byteRow .p0 0x12 = some (.detach .p0) ∧
      (part (got [0x20, 0]) idle []).byteRow .p0 9 = some (.argumentByteReceived .p0 9) ∧
      (part (got [0x20, 0, 0]) idle []).byteRow .p0 9 = some (.reserve .p0 9) ∧
      (∀ k ∈ ([0x00, 0x01, 0x02, 0x03, 0x04] : List Byte), (part (got [0x60, k]) idle []).inArgument .p0 0x60 [k]) ∧
      exec (.reserve .p0 9) (part (got [0x20, 0]) idle []) = .refused .otherEvent ∧
      exec (.status .p0) (part (got [0x20, 0]) idle []) = .refused .otherEvent ∧
      exec (.getPayloadByte .p0) (part cmd idle []) = .refused .otherEvent :=
  ⟨by decide, by decide, by decide, by decide, rfl, rfl, rfl⟩

/-- SelectFrames, PortResetFalls and ResetLinesRise: each line high and low. -/
theorem witness_lines :
    (((part idle idle []).port .p0).selHigh = true ∧ ((part idle idle []).port .p0).txn.phase = .idle) ∧
      (({ PortState.reset with txn := Txn.quiet .held } : PortState).selHigh = true ∧
        ({ PortState.reset with txn := Txn.quiet .held } : PortState).txn.phase ≠ .idle) ∧
      ((part cmd idle []).port .p0).selHigh = false ∧
      (((part cmd idle []).port .p3).prstHigh = true ∧ (part cmd idle []).attached .p3 = false) ∧
      (BooksOk traffic ∧ (traffic.port .p0).prstHigh = true ∧ traffic.attached .p0 = true) ∧
      ((part { PortState.reset with prstHigh := false } idle []).port .p0).prstHigh = false ∧
      ({ State.reset with rstHigh := false } : State).rstHigh = false ∧ traffic.rstHigh = true :=
  ⟨by decide, by decide, by decide, by decide, ⟨traffic_books, by decide, by decide⟩, by decide, by decide, by decide⟩

/-- The part of `traffic` in which the message of P0, the lease of P1 and a proposal stand at 1. -/
def ending : State :=
  { traffic with
    ports := traffic.ports.set .p1 { traffic.port .p1 with leasePeriod := 255, leaseCounter := 1 }
    records := [(0, { message .opened .claimed with cells := [0], remaining := some 1 })]
    slot := some { proposal with remaining := 1 } }

theorem ending_record (id : Nat) :
    ending.record? id =
      if 0 = id then some { message .opened .claimed with cells := [0], remaining := some 1 } else none := rfl

theorem ending_books : BooksOk ending where
  table := by constructor <;> decide
  deposit := by
    intro p id
    cases p <;> simp [ending_record, message] <;>
      simp [ending, traffic, State.port, PerPort.get, PerPort.set, cmd, idle, PortState.reset]
  depositMode := by intro p; cases p <;> decide
  backlog := by
    intro p id
    cases p <;> simp [ending_record, message] <;>
      simp [ending, traffic, State.port, PerPort.get, PerPort.set, cmd, idle, PortState.reset]
  backlogOnce := by intro p; cases p <;> decide
  backlogMode := by intro p; cases p <;> decide
  backlogFull := by intro p; cases p <;> decide

theorem ending_counts : CountsOk ending where
  table := ending_books.table
  deflife := by decide
  slot := by
    intro a h
    cases h
    decide
  lifetime := by simp [ending, message]
  lease := by intro p; cases p <;> decide

/-- TickCounts: a part where nothing stands at 1, one where a lifetime, a lease and a proposal do, one with RSTn low, and
single records at 0. -/
theorem witness_TickCounts :
    (traffic.rstHigh = true ∧ CountsOk traffic ∧ BooksOk traffic ∧ (∀ e ∈ traffic.records, e.2.remaining ≠ some 1) ∧
        (∀ p, (traffic.port p).leasePeriod = 0) ∧ proposing.slot.map Proposal.remaining = some 5) ∧
      (ending.rstHigh = true ∧ CountsOk ending ∧ BooksOk ending ∧
        (ending.record? 0).map Record.remaining = some (some 1) ∧
        (ending.attached .p1 = true ∧ (ending.port .p1).leasePeriod ≠ 0 ∧ (ending.port .p1).leaseCounter = 1 ∧
          (ending.port .p1).txn.phase = .idle) ∧ ending.slot.map Proposal.remaining = some 1) ∧
      ({ State.reset with rstHigh := false } : State).rstHigh = false ∧
      ∀ st ∈ [RecState.opened, .sealed],
        let u := part idle idle [(9, { message st .queued with remaining := some 0 })]
        ((u.records.map Prod.fst).Pairwise (· < ·) ∧ ∀ e ∈ u.records, e.1 < Config.recordCount) ∧
          u.record? 9 = some { message st .queued with remaining := some 0 } := by
  refine ⟨⟨by decide, traffic_counts, traffic_books, by decide, by intro p; cases p <;> decide, by decide⟩,
    ⟨by decide, ending_counts, ending_books, by decide, by decide, by decide⟩, by decide, by decide⟩

/-- OpenRecordExpires and SealedRecordExpires: a lifetime at 0 and one at 1. -/
theorem witness_expiries :
    (∀ x ∈ [(RecState.opened, Stage.claimed), (.opened, .fetching), (.sealed, .queued), (.sealed, .fetching)],
      let r : Record := { message x.1 x.2 with remaining := some 0 }
      (part idle { idle with fetch := some ⟨9, 0, true⟩ } [(9, r)]).record? 9 = some r ∧ r.remaining = some 0 ∧
        r.state = x.1 ∧ (r.deliveries.map Entry.port).Nodup ∧
        ((part idle { idle with fetch := some ⟨9, 0, true⟩ } [(9, r)]).port .p1).fetch = some ⟨9, 0, true⟩) ∧
      ({ message .opened .claimed with remaining := some 1 } : Record).remaining ≠ some 0 ∧
      (part idle idle []).record? 9 = none := by decide

/-- The part of `traffic` with a lease of P1 that has run out. -/
def leasing : State := traffic.setPort .p1 { traffic.port .p1 with leasePeriod := 9 }

/-- TimersRunOut: a lease at 0 in a part whose contexts are in order, a lease of period 0, a proposal at 0 and at 1. -/
theorem witness_TimersRunOut :
    (BooksOk leasing ∧ leasing.attached .p1 = true ∧ (leasing.port .p1).leasePeriod ≠ 0 ∧
        (leasing.port .p1).leaseCounter = 0) ∧
      (traffic.port .p0).leasePeriod = 0 ∧
      ({ proposing with slot := some { proposal with remaining := 0 } } : State).slot.map Proposal.remaining = some 0 ∧
      traffic.slot = none := by
  refine ⟨⟨⟨traffic_books.table, ?_, ?_, ?_, ?_, ?_, ?_⟩, by decide, by decide, by decide⟩, by decide, by decide, by decide⟩
  all_goals (intro p; cases p)
  exacts [traffic_books.deposit .p0, traffic_books.deposit .p1, traffic_books.deposit .p2, traffic_books.deposit .p3,
    traffic_books.depositMode .p0, traffic_books.depositMode .p1, traffic_books.depositMode .p2,
    traffic_books.depositMode .p3, traffic_books.backlog .p0, traffic_books.backlog .p1, traffic_books.backlog .p2,
    traffic_books.backlog .p3, traffic_books.backlogOnce .p0, traffic_books.backlogOnce .p1,
    traffic_books.backlogOnce .p2, traffic_books.backlogOnce .p3, traffic_books.backlogMode .p0,
    traffic_books.backlogMode .p1, traffic_books.backlogMode .p2, traffic_books.backlogMode .p3,
    traffic_books.backlogFull .p0, traffic_books.backlogFull .p1, traffic_books.backlogFull .p2,
    traffic_books.backlogFull .p3]

/-- The part of `traffic` with P1 in TEARDOWN. -/
def leaving : State := traffic.setPort .p1 { traffic.port .p1 with mode := .teardown }

theorem witness_TeardownCompletes :
    ((leaving.port .p1).mode = .teardown ∧ TableOk leaving ∧ PoolOk leaving ∧ leaving.attached .p0 = true ∧
        leaving.attached .p3 = false ∧ ∃ r, leaving.record? 0 = some r) ∧
      (traffic.port .p1).mode ≠ .teardown := by
  refine ⟨⟨by decide, traffic_table, ?_, by decide, by decide, _, rfl⟩, by decide⟩
  exact
    { table := traffic_table
      cells := traffic_pool.cells
      account := traffic_pool.account
      reporting := traffic_pool.reporting
      reserves := by intro p c; cases p; exacts [traffic_pool.reserves .p0 c, traffic_pool.reserves .p1 c,
        traffic_pool.reserves .p2 c, traffic_pool.reserves .p3 c]
      shared := traffic_pool.shared
      reserveRoom := by intro p c; cases p; exacts [traffic_pool.reserveRoom .p0 c, traffic_pool.reserveRoom .p1 c,
        traffic_pool.reserveRoom .p2 c, traffic_pool.reserveRoom .p3 c]
      sharedRoom := traffic_pool.sharedRoom
      sum := traffic_pool.sum
      perPort := by intro p; cases p; exacts [traffic_pool.perPort .p0, traffic_pool.perPort .p1,
        traffic_pool.perPort .p2, traffic_pool.perPort .p3] }

end Sys2Proof.Tests
end

section
/-! SUPPORT. What the laws of the pool and the books of the contexts read of a state, and the operations that leave it
alone: `PoolSame`, `BooksSame`, and both together, `Quiet`. -/

namespace Sys2Proof.Machine

open Sys2Proof

/-! ### The table of records -/

/-- A record that is looked up is listed. -/
theorem mem_of_lookupRecord {id : Nat} {r : Record} {l : List (Nat × Record)} (h : lookupRecord id l = some r) :
    (id, r) ∈ l := by
  induction l with
  | nil => cases h
  | cons e rest ih =>
    obtain ⟨k, x⟩ := e
    by_cases hk : k = id
    · simp_all [lookupRecord]
    · simp only [lookupRecord, hk, if_false] at h
      exact List.mem_cons_of_mem _ (ih h)

theorem mem_insertRecord {id : Nat} {r : Record} {l : List (Nat × Record)} {e : Nat × Record}
    (h : e ∈ insertRecord id r l) : e = (id, r) ∨ e ∈ l := by
  induction l with
  | nil => exact .inl (List.mem_singleton.1 h)
  | cons a rest ih =>
    obtain ⟨k, x⟩ := a
    unfold insertRecord at h
    split at h
    · exact List.mem_cons.1 h
    · split at h
      · exact (List.mem_cons.1 h).imp_right (List.mem_cons_of_mem _)
      · obtain rfl | h := List.mem_cons.1 h
        · exact .inr List.mem_cons_self
        · exact (ih h).imp_right (List.mem_cons_of_mem _)

section
variable {s : State} {id : Nat} {r : Record} (h : TableOk s)
include h

/-- In a table in order, what is listed is what is looked up. -/
theorem TableOk.mem_iff {e : Nat × Record} : e ∈ s.records ↔ s.record? e.1 = some e.2 :=
  mem_iff_lookupRecord h.1 e.1 e.2

theorem TableOk.lt (hr : s.record? id = some r) : id < Config.recordCount := h.2 _ (mem_of_lookupRecord hr)

theorem TableOk.putRecord (hid : id < Config.recordCount) : TableOk (s.putRecord id r) :=
  ⟨insertRecord_pairwise id r h.1, fun _ he => (mem_insertRecord he).elim (fun hi => hi ▸ hid) (h.2 _)⟩

theorem TableOk.freeRecord : TableOk (s.freeRecord id) :=
  ⟨h.1.sublist (List.filter_sublist.map _), fun e he => h.2 e (List.mem_of_mem_filter he)⟩

theorem TableOk.mapRecords (f : Record → Record) : TableOk (s.mapRecords f) := by
  refine ⟨?_, fun e he => ?_⟩
  · simpa [State.mapRecords, List.map_map, Function.comp_def] using h.1
  · obtain ⟨e', he', rfl⟩ := List.mem_map.1 he
    exact h.2 e' he'

end

/-- The table depends on the list of records alone. -/
theorem TableOk.congr {s t : State} (h : TableOk s) (hr : t.records = s.records) : TableOk t := by
  unfold TableOk
  rw [hr]
  exact h

/-! ### What the two bodies of laws read -/

/-- What the laws of the pool read of a record. -/
def Record.holding (r : Record) : Port × Cls × List Nat × Option Charge := (r.source, r.cls, r.cells, r.account)

/-- What the books read of a record. -/
def Record.standing (r : Record) : RecState × Port := (r.state, r.source)

/-- What the laws of the pool read of a port. -/
def PortState.accounts (x : PortState) : Account × Account := (x.resExpress, x.resBulk)

/-- What the books read of a port, its notices apart. -/
def PortState.booked (x : PortState) : Bool × Deposit × List Nat := (x.mode == .attached, x.deposit, x.backlog)

/-- `t` gives the laws of the pool what `s` gives them. -/
structure PoolSame (s t : State) : Prop where
  table : TableOk s → TableOk t
  holding : ∀ id, (t.record? id).map Record.holding = (s.record? id).map Record.holding
  reporting : ∀ id r, t.record? id = some r → r.state = .reporting →
    ∃ x, s.record? id = some x ∧ x.state = .reporting
  accounts : ∀ q, (t.port q).accounts = (s.port q).accounts
  freeList : t.freeList = s.freeList
  sharedCharged : t.sharedCharged = s.sharedCharged

/-- `t` gives the books what `s` gives them, and holds as many notices or more. -/
structure BooksSame (s t : State) : Prop where
  table : TableOk s → TableOk t
  standing : ∀ id, (t.record? id).map Record.standing = (s.record? id).map Record.standing
  booked : ∀ q, (t.port q).booked = (s.port q).booked
  notices : ∀ q, (s.port q).notices.length ≤ (t.port q).notices.length

/-- Neither the pool nor the books change. -/
structure Quiet (s t : State) : Prop where
  pool : PoolSame s t
  books : BooksSame s t

theorem PoolSame.refl (s : State) : PoolSame s s :=
  ⟨id, fun _ => rfl, fun _ r h hr => ⟨r, h, hr⟩, fun _ => rfl, rfl, rfl⟩

theorem PoolSame.trans {s t u : State} (h : PoolSame s t) (k : PoolSame t u) : PoolSame s u where
  table hs := k.table (h.table hs)
  holding id := (k.holding id).trans (h.holding id)
  reporting id r hr hst := by
    obtain ⟨x, hx, hxs⟩ := k.reporting id r hr hst
    exact h.reporting id x hx hxs
  accounts q := (k.accounts q).trans (h.accounts q)
  freeList := k.freeList.trans h.freeList
  sharedCharged := k.sharedCharged.trans h.sharedCharged

theorem BooksSame.refl (s : State) : BooksSame s s := ⟨id, fun _ => rfl, fun _ => rfl, fun _ => le_rfl⟩

theorem BooksSame.trans {s t u : State} (h : BooksSame s t) (k : BooksSame t u) : BooksSame s u where
  table hs := k.table (h.table hs)
  standing id := (k.standing id).trans (h.standing id)
  booked q := (k.booked q).trans (h.booked q)
  notices q := (h.notices q).trans (k.notices q)

theorem Quiet.refl (s : State) : Quiet s s := ⟨.refl s, .refl s⟩

theorem Quiet.trans {s t u : State} (h : Quiet s t) (k : Quiet t u) : Quiet s u :=
  ⟨h.pool.trans k.pool, h.books.trans k.books⟩

/-- A list of operations, each of which is quiet, is quiet. -/
theorem Quiet.foldl {α : Type} {f : State → α → State} (hf : ∀ s a, Quiet s (f s a)) (l : List α) (s : State) :
    Quiet s (l.foldl f s) := by
  induction l generalizing s with
  | nil => exact .refl s
  | cons a l ih => exact (hf s a).trans (ih (f s a))

section
variable {s t : State}

theorem BooksSame.attached (h : BooksSame s t) (q : Port) : t.attached q = s.attached q :=
  congrArg Prod.fst (h.booked q)

theorem BooksSame.deposit (h : BooksSame s t) (q : Port) : (t.port q).deposit = (s.port q).deposit :=
  congrArg (fun b => b.2.1) (h.booked q)

theorem BooksSame.backlog (h : BooksSame s t) (q : Port) : (t.port q).backlog = (s.port q).backlog :=
  congrArg (fun b => b.2.2) (h.booked q)

theorem PoolSame.reserve (h : PoolSame s t) (q : Port) (c : Cls) : (t.port q).reserve c = (s.port q).reserve c := by
  cases c
  · exact congrArg Prod.fst (h.accounts q)
  · exact congrArg Prod.snd (h.accounts q)

/-- A record of `t` stands as a record of `s` does. -/
theorem BooksSame.record (h : BooksSame s t) {id : Nat} {r : Record} (hr : t.record? id = some r) :
    ∃ x, s.record? id = some x ∧ x.state = r.state ∧ x.source = r.source := by
  have hk := h.standing id
  rw [hr] at hk
  obtain ⟨x, hx, hst⟩ := Option.map_eq_some_iff.1 hk.symm
  simp only [Record.standing, Prod.mk.injEq] at hst
  exact ⟨x, hx, hst⟩

/-- A record of `s` stands in `t` as it did. -/
theorem BooksSame.record' (h : BooksSame s t) {id : Nat} {r : Record} (hr : s.record? id = some r) :
    ∃ x, t.record? id = some x ∧ x.state = r.state ∧ x.source = r.source := by
  have hk := h.standing id
  rw [hr] at hk
  obtain ⟨x, hx, hst⟩ := Option.map_eq_some_iff.1 hk
  simp only [Record.standing, Prod.mk.injEq] at hst
  exact ⟨x, hx, hst⟩

/-- A record of `t` holds what a record of `s` holds. -/
theorem PoolSame.record (h : PoolSame s t) {id : Nat} {r : Record} (hr : t.record? id = some r) :
    ∃ x, s.record? id = some x ∧ x.source = r.source ∧ x.cls = r.cls ∧ x.cells = r.cells ∧ x.account = r.account := by
  have hk := h.holding id
  rw [hr] at hk
  obtain ⟨x, hx, hst⟩ := Option.map_eq_some_iff.1 hk.symm
  simp only [Record.holding, Prod.mk.injEq] at hst
  exact ⟨x, hx, hst⟩

end

/-! ### Changes of ports -/

/-- A port after a change that neither the pool nor the books see. -/
structure PortState.Stays (x y : PortState) : Prop where
  accounts : y.accounts = x.accounts
  booked : y.booked = x.booked
  notices : x.notices.length ≤ y.notices.length

theorem PortState.Stays.refl (x : PortState) : x.Stays x := ⟨rfl, rfl, le_rfl⟩

theorem PortState.Stays.trans {x y z : PortState} (h : x.Stays y) (k : y.Stays z) : x.Stays z :=
  ⟨k.accounts.trans h.accounts, k.booked.trans h.booked, h.notices.trans k.notices⟩

/-- Where records, free list and SHARED stand, the pool looks at the accounts of the ports alone. -/
theorem poolSame_of_ports {s t : State} (hr : t.records = s.records) (hf : t.freeList = s.freeList)
    (hs : t.sharedCharged = s.sharedCharged) (hp : ∀ q, (t.port q).accounts = (s.port q).accounts) : PoolSame s t := by
  have hrec : ∀ id, t.record? id = s.record? id := fun id => by simp only [State.record?, hr]
  exact ⟨fun h => h.congr hr, fun id => by rw [hrec], fun id r h hst => ⟨r, hrec id ▸ h, hst⟩, hp, hf, hs⟩

/-- Where the records stand, the books look at the ports alone. -/
theorem booksSame_of_ports {s t : State} (hr : t.records = s.records) (hp : ∀ q, (t.port q).booked = (s.port q).booked)
    (hn : ∀ q, (s.port q).notices.length ≤ (t.port q).notices.length) : BooksSame s t :=
  ⟨fun h => h.congr hr, fun id => by simp only [State.record?, hr], hp, hn⟩

theorem quiet_of_ports {s t : State} (hr : t.records = s.records) (hf : t.freeList = s.freeList)
    (hs : t.sharedCharged = s.sharedCharged) (hp : ∀ q, (s.port q).Stays (t.port q)) : Quiet s t :=
  ⟨poolSame_of_ports hr hf hs fun q => (hp q).accounts,
    booksSame_of_ports hr (fun q => (hp q).booked) fun q => (hp q).notices⟩

/-- A state that differs in its ports alone. -/
theorem quiet_of_part {s t : State} (h : t = { s with ports := t.ports }) (hp : ∀ q, (s.port q).Stays (t.port q)) :
    Quiet s t :=
  quiet_of_ports (by rw [h]) (by rw [h]) (by rw [h]) hp

/-- A property that relates each port to itself, and port `p` to its change, relates every port to its change. -/
theorem port_modPort_rel {R : PortState → PortState → Prop} (hR : ∀ x, R x x) {s : State} {p : Port}
    {f : PortState → PortState} (h : R (s.port p) (f (s.port p))) (q : Port) :
    R (s.port q) ((s.modPort p f).port q) := by
  rw [State.port_modPort]
  split
  · rename_i hq; subst hq; exact h
  · exact hR _

theorem quiet_modPort {s : State} {p : Port} {f : PortState → PortState} (h : (s.port p).Stays (f (s.port p))) :
    Quiet s (s.modPort p f) :=
  quiet_of_ports rfl rfl rfl (port_modPort_rel PortState.Stays.refl h)

/-- A change of a port that keeps its accounts. -/
theorem poolSame_modPort {s : State} {p : Port} {f : PortState → PortState}
    (h : (f (s.port p)).accounts = (s.port p).accounts) : PoolSame s (s.modPort p f) :=
  poolSame_of_ports rfl rfl rfl (port_modPort_rel (R := fun x y => y.accounts = x.accounts) (fun _ => rfl) h)

/-- A change of a port that keeps its mode, deposit context, backlog and notices. -/
theorem booksSame_modPort {s : State} {p : Port} {f : PortState → PortState}
    (h : (f (s.port p)).booked = (s.port p).booked) (hn : (f (s.port p)).notices = (s.port p).notices) :
    BooksSame s (s.modPort p f) :=
  booksSame_of_ports rfl (port_modPort_rel (R := fun x y => y.booked = x.booked) (fun _ => rfl) h)
    (port_modPort_rel (R := fun x y => x.notices.length ≤ y.notices.length) (fun _ => le_rfl) (by rw [hn]))

theorem PortState.raised_stays (c : Cause) (x : PortState) : x.Stays (x.raised c) := by
  unfold PortState.raised
  split <;> exact ⟨rfl, rfl, le_rfl⟩

theorem PortState.woken_stays (id : Nat) (x : PortState) : x.Stays (x.woken id) := by
  unfold PortState.woken
  split
  · exact .refl x
  · rename_i c _
    have h : x.Stays { x with fetch := some { c with awaiting := false } } := ⟨rfl, rfl, le_rfl⟩
    split
    · exact h.trans (PortState.raised_stays _ _)
    · exact .refl x

theorem PortState.cut_stays (id : Nat) (x : PortState) : x.Stays (x.cut id) := by
  unfold PortState.cut
  split
  · exact .refl x
  · split
    · exact PortState.raised_stays _ _
    · exact .refl x

theorem PortState.waitChecked_stays (n g : Nat) (x : PortState) : x.Stays (x.waitChecked n g) := by
  unfold PortState.waitChecked
  split
  · exact .refl x
  · have h : x.Stays { x with wait := none } := ⟨rfl, rfl, le_rfl⟩
    split
    · exact h.trans (PortState.raised_stays _ _)
    · exact .refl x

theorem PortState.noticed_stays {f : List Notice → List Notice} (hf : ∀ ns, ns.length ≤ (f ns).length)
    (x : PortState) : x.Stays (x.noticed f) := by
  unfold PortState.noticed
  split
  · exact ⟨rfl, rfl, hf _⟩
  · exact .refl x

theorem PortState.setQueue_stays (x : PortState) (c : Cls) (l : List Nat) : x.Stays (x.setQueue c l) := by
  cases c <;> exact ⟨rfl, rfl, le_rfl⟩

theorem PortState.dropDelivery_stays (x : PortState) (id : Nat) (c : Cls) (st : Stage) :
    x.Stays (x.dropDelivery id c st) := by
  unfold PortState.dropDelivery
  split
  · exact (PortState.setQueue_stays x _ _).trans ⟨rfl, rfl, le_rfl⟩
  · exact ⟨rfl, rfl, le_rfl⟩

theorem PortState.published_stays (id : Nat) (c : Cls) (x : PortState) : x.Stays (x.published id c) := by
  unfold PortState.published
  split
  · exact (PortState.setQueue_stays x _ _).trans (PortState.raised_stays _ _)
  · exact PortState.dropDelivery_stays _ _ _ _

theorem length_le_withPeer (r : Port) (b : Bool) (ns : List Notice) : ns.length ≤ (withPeer r b ns).length := by
  unfold withPeer
  split <;> simp

theorem length_le_withAgreement (a : AgreementInfo) (ns : List Notice) :
    ns.length ≤ (withAgreement a ns).length := by
  unfold withAgreement
  split <;> simp

theorem quiet_raise (s : State) (p : Port) (c : Cause) : Quiet s (s.raise p c) := by
  rw [raise_eq]
  exact quiet_modPort (PortState.raised_stays _ _)

/-! ### Changes of records -/

/-- A record in the place of one that holds the same, and that reports only where that one did. -/
theorem poolSame_putRecord {s : State} {id : Nat} {r r' : Record} (hr : s.record? id = some r)
    (hh : r'.holding = r.holding) (hst : r'.state = .reporting → r.state = .reporting) :
    PoolSame s (s.putRecord id r') where
  table h := h.putRecord (h.lt hr)
  holding j := by
    by_cases hj : j = id
    · subst hj; simp [hr, hh]
    · rw [State.putRecord_record?_of_ne _ _ _ hj]
  reporting j x hx hxs := by
    by_cases hj : j = id
    · subst hj
      rw [State.putRecord_record?_self] at hx
      cases hx
      exact ⟨r, hr, hst hxs⟩
    · exact ⟨x, by rwa [State.putRecord_record?_of_ne _ _ _ hj] at hx, hxs⟩
  accounts _ := rfl
  freeList := rfl
  sharedCharged := rfl

theorem booksSame_putRecord {s : State} {id : Nat} {r r' : Record} (hr : s.record? id = some r)
    (hk : r'.standing = r.standing) : BooksSame s (s.putRecord id r') where
  table h := h.putRecord (h.lt hr)
  standing j := by
    by_cases hj : j = id
    · subst hj; simp [hr, hk]
    · rw [State.putRecord_record?_of_ne _ _ _ hj]
  booked _ := rfl
  notices _ := le_rfl

theorem quiet_putRecord {s : State} {id : Nat} {r r' : Record} (hr : s.record? id = some r)
    (hh : r'.holding = r.holding) (hk : r'.standing = r.standing) : Quiet s (s.putRecord id r') :=
  ⟨poolSame_putRecord hr hh fun h => (congrArg Prod.fst hk).symm.trans h, booksSame_putRecord hr hk⟩

theorem poolSame_modRecord (s : State) (id : Nat) {f : Record → Record} (hh : ∀ r, (f r).holding = r.holding)
    (hst : ∀ r, (f r).state = .reporting → r.state = .reporting) : PoolSame s (s.modRecord id f) := by
  cases hr : s.record? id with
  | none => rw [State.modRecord_of_none _ _ _ hr]; exact .refl s
  | some r => rw [State.modRecord_of_some _ _ _ hr]; exact poolSame_putRecord hr (hh r) (hst r)

theorem quiet_modRecord (s : State) (id : Nat) {f : Record → Record} (hh : ∀ r, (f r).holding = r.holding)
    (hk : ∀ r, (f r).standing = r.standing) : Quiet s (s.modRecord id f) := by
  cases hr : s.record? id with
  | none => rw [State.modRecord_of_none _ _ _ hr]; exact .refl s
  | some r => rw [State.modRecord_of_some _ _ _ hr]; exact quiet_putRecord hr (hh r) (hk r)

theorem booksSame_mapRecords (s : State) {f : Record → Record} (hk : ∀ r, (f r).standing = r.standing) :
    BooksSame s (s.mapRecords f) where
  table h := h.mapRecords f
  standing id := by simp [Function.comp_def, hk]
  booked _ := rfl
  notices _ := le_rfl

theorem quiet_mapRecords (s : State) {f : Record → Record} (hh : ∀ r, (f r).holding = r.holding)
    (hk : ∀ r, (f r).standing = r.standing) : Quiet s (s.mapRecords f) where
  pool :=
    { table := fun h => h.mapRecords f
      holding := fun id => by simp [Function.comp_def, hh]
      reporting := fun id r hr hst => by
        rw [State.mapRecords_record?] at hr
        obtain ⟨x, hx, rfl⟩ := Option.map_eq_some_iff.1 hr
        exact ⟨x, hx, (congrArg Prod.fst (hk x)).symm.trans hst⟩
      accounts := fun _ => rfl
      freeList := rfl
      sharedCharged := rfl }
  books := booksSame_mapRecords s hk

/-! ### The shared operations that are quiet -/

theorem quiet_waitCheck (s : State) : Quiet s s.waitCheck := by
  refine quiet_of_part (waitCheck_part s) fun q => ?_
  rw [waitCheck_port]
  exact PortState.waitChecked_stays _ _ _

theorem quiet_waitCheckIfFreed (s before : State) : Quiet s (s.waitCheckIfFreed before) := by
  unfold State.waitCheckIfFreed
  split
  · exact quiet_waitCheck s
  · exact .refl s

theorem quiet_wakeReaders (s : State) (id : Nat) : Quiet s (s.wakeReaders id) := by
  refine quiet_of_part (wakeReaders_part s id) fun q => ?_
  rw [wakeReaders_port]
  exact PortState.woken_stays _ _

theorem quiet_cutReaders (s : State) (id : Nat) : Quiet s (s.cutReaders id) := by
  refine quiet_of_part (cutReaders_part s id) fun q => ?_
  rw [cutReaders_port]
  exact PortState.cut_stays _ _

theorem quiet_offerPeers (s : State) (r : Port) (b : Bool) : Quiet s (s.offerPeers r b) := by
  refine quiet_of_part (offerPeers_part s r b) fun q => ?_
  rw [offerPeers_port]
  split
  · exact .refl _
  · exact PortState.noticed_stays (length_le_withPeer r b) _

theorem quiet_offerAgreements (s : State) (a : AgreementInfo) (m : PortSet) : Quiet s (s.offerAgreements a m) := by
  refine quiet_of_part (offerAgreements_part s a m) fun q => ?_
  rw [offerAgreements_port]
  split
  · exact PortState.noticed_stays (length_le_withAgreement a) _
  · exact .refl _

theorem quiet_claim (s : State) (m : PortSet) : Quiet s (s.claim m) := by
  refine quiet_of_part (claim_part s m) fun q => ?_
  rw [claim_port]
  split <;> exact ⟨rfl, rfl, le_rfl⟩

theorem quiet_endDeliveries (s : State) (id : Nat) (f : Entry → Option Fate) : Quiet s (s.endDeliveries id f) := by
  unfold State.endDeliveries
  split
  · exact .refl s
  · rename_i r hr
    refine .trans ?_ (Quiet.foldl (fun _ _ => quiet_modPort (PortState.dropDelivery_stays _ _ _ _)) _ _)
    exact quiet_putRecord hr rfl rfl

theorem quiet_publish (s : State) (id : Nat) : Quiet s (s.publish id) := by
  unfold State.publish
  simp only [publishAt_eq]
  split
  · exact .refl s
  · rename_i r hr
    refine .trans ?_ (Quiet.foldl (fun _ _ => quiet_modPort (PortState.published_stays _ _ _)) _ _)
    exact quiet_putRecord hr rfl rfl

theorem quiet_expireSealed (s : State) (id : Nat) : Quiet s (s.expireSealed id) :=
  (quiet_endDeliveries _ _ _).trans (quiet_modRecord _ _ (fun _ => rfl) fun _ => rfl)

theorem quiet_dropReceipts (s : State) (p : Port) : Quiet s (s.dropReceipts p) := by
  refine quiet_mapRecords s ?_ ?_ <;> intro r <;> split <;> rfl

theorem quiet_loseFetch (s : State) (p : Port) : Quiet s (s.loseFetch p) := by
  have h : Quiet s (s.modPort p fun q => { q with fetch := none }) := quiet_modPort ⟨rfl, rfl, le_rfl⟩
  unfold State.loseFetch
  dsimp only
  split
  · exact h
  · exact h.trans (quiet_endDeliveries _ _ _)

theorem quiet_purgeDeliveries (s : State) (p : Port) : Quiet s (s.purgeDeliveries p) := by
  refine .trans ?_ (quiet_modPort ⟨rfl, rfl, le_rfl⟩)
  exact quiet_mapRecords s (fun _ => rfl) fun _ => rfl

/-! ### The agreement and the tick -/

theorem quiet_takeSetting (s : State) (st : Setting) (v : Nat) : Quiet s (s.takeSetting st v) := by
  cases st with
  | guard =>
    have h : Quiet s { s with guard := v } := quiet_of_ports rfl rfl rfl fun _ => .refl _
    exact h.trans (quiet_waitCheck _)
  | tick => exact quiet_of_ports rfl rfl rfl fun _ => .refl _
  | deflife => exact quiet_of_ports rfl rfl rfl fun _ => .refl _

theorem quiet_slot (s : State) (o : Option Proposal) : Quiet s { s with slot := o } :=
  quiet_of_ports rfl rfl rfl fun _ => .refl _

theorem quiet_adopt (s : State) (a : Proposal) : Quiet s (s.adopt a) :=
  ((quiet_takeSetting s _ _).trans (quiet_offerAgreements _ _ _)).trans (quiet_slot _ _)

theorem quiet_holdOrAdopt (s : State) (a : Proposal) : Quiet s (s.holdOrAdopt a) := by
  unfold State.holdOrAdopt
  split
  · exact quiet_adopt s a
  · exact quiet_slot s _

theorem quiet_endProposal (s : State) (i : AgreementInfo) (m : PortSet) : Quiet s (s.endProposal i m) :=
  (quiet_offerAgreements s i m).trans (quiet_slot _ _)

theorem quiet_leaveProposal (s : State) (p : Port) : Quiet s (s.leaveProposal p) := by
  unfold State.leaveProposal
  split
  · exact .refl s
  · split
    · split
      · exact quiet_endProposal _ _ _
      · exact quiet_holdOrAdopt _ _
    · exact .refl s

theorem quiet_timeOut (s : State) : Quiet s s.timeOut := by
  unfold State.timeOut
  split
  · exact .refl s
  · split
    · exact quiet_endProposal _ _ _
    · exact .refl s

theorem quiet_makeProposal (s : State) (a : Proposal) : Quiet s (s.makeProposal a) := by
  unfold State.makeProposal
  split
  · exact quiet_adopt s a
  · exact (quiet_slot s _).trans (quiet_offerAgreements _ _ _)

theorem quiet_countdown (s : State) : Quiet s s.countdown := by
  have hr : Quiet s (s.mapRecords Record.countdown) := by
    refine quiet_mapRecords s ?_ ?_ <;> intro r <;> unfold Record.countdown <;> split <;> rfl
  refine hr.trans (quiet_of_ports rfl rfl rfl fun q => ?_)
  have hq : (s.countdown).port q = (s.port q).countdown := PerPort.get_map _ _ _
  rw [State.mapRecords_port, hq]
  unfold PortState.countdown
  split <;> exact ⟨rfl, rfl, le_rfl⟩

end Sys2Proof.Machine
end

section
/-! SUPPORT. The laws of the pool under each operation that moves cells: what a record and its account hold before and
after, and the balance of the nine accounts (R2 to R5, R8 to R12, R15, R16, R21, R37). -/

namespace Sys2Proof.Machine

open Sys2Proof

/-! ### The cells of the records, id by id -/

/-- The cells of a record that satisfies `c`; none where it is FREE. -/
def cellsIf (c : Record → Bool) : Option Record → List Nat
  | none => []
  | some r => if c r then r.cells else []

/-- How many cells the records of a list that satisfy `c` hold. -/
def cellsIn (c : Record → Bool) (l : List (Nat × Record)) : Nat :=
  (l.map fun e => if c e.2 then e.2.cells.length else 0).sum

theorem cellsWhere_eq_cellsIn (s : State) (c : Record → Bool) : s.cellsWhere c = cellsIn c s.records := rfl

theorem cellsIn_eq_length (c : Record → Bool) (l : List (Nat × Record)) :
    cellsIn c l = (l.flatMap fun e => cellsIf c (some e.2)).length := by
  simp only [cellsIn, cellsIf, List.length_flatMap, apply_ite List.length, List.length_nil]

theorem cellsOf_eq (s : State) (id : Nat) : s.cellsOf id = cellsIf (fun _ => true) (s.record? id) := by
  unfold State.cellsOf
  cases s.record? id <;> rfl

/-- Two families of lists that differ at one index. -/
theorem flatMap_update_perm {l : List Nat} (hl : l.Nodup) {k : Nat} (hk : k ∈ l) {f g : Nat → List Nat}
    (h : ∀ j, j ≠ k → f j = g j) : (l.flatMap f ++ g k).Perm (l.flatMap g ++ f k) := by
  have hrest : (l.erase k).flatMap f = (l.erase k).flatMap g :=
    List.flatMap_congr fun j hj => h j (hl.mem_erase_iff.1 hj).1
  have hf : (l.flatMap f).Perm (f k ++ (l.erase k).flatMap f) := (List.perm_cons_erase hk).flatMap_right f
  have hg : (l.flatMap g).Perm (g k ++ (l.erase k).flatMap g) := (List.perm_cons_erase hk).flatMap_right g
  calc (l.flatMap f ++ g k).Perm (f k ++ (l.erase k).flatMap f ++ g k) := hf.append_right _
    _ = f k ++ ((l.erase k).flatMap g ++ g k) := by rw [hrest, List.append_assoc]
    _ |>.Perm (f k ++ (g k ++ (l.erase k).flatMap g)) := List.perm_append_comm.append_left _
    _ |>.Perm (f k ++ l.flatMap g) := hg.symm.append_left _
    _ |>.Perm (l.flatMap g ++ f k) := List.perm_append_comm

/-- A list of records read in order is the table read id by id. -/
theorem flatMap_lookup_perm (F : Nat → Option Record → List Nat) (hF : ∀ id, F id none = []) {n : Nat}
    {l : List (Nat × Record)} (hn : (l.map (·.1)).Nodup) (hlt : ∀ e ∈ l, e.1 < n) :
    (l.flatMap fun e => F e.1 (some e.2)).Perm ((List.range n).flatMap fun id => F id (lookupRecord id l)) := by
  induction l with
  | nil => simp [lookupRecord, hF]
  | cons e rest ih =>
    obtain ⟨k, x⟩ := e
    rw [List.map_cons, List.nodup_cons] at hn
    have hk : lookupRecord k rest = none := by
      cases hr : lookupRecord k rest with
      | none => rfl
      | some r => exact absurd (List.mem_map_of_mem (mem_of_lookupRecord hr)) hn.1
    have hup := flatMap_update_perm (List.nodup_range (n := n)) (k := k) (List.mem_range.2 (hlt _ List.mem_cons_self))
      (f := fun id => F id (lookupRecord id ((k, x) :: rest))) (g := fun id => F id (lookupRecord id rest))
      fun j hj => by simp [lookupRecord, Ne.symm hj]
    simp only [hk, hF, List.append_nil, lookupRecord, if_true] at hup
    rw [List.flatMap_cons]
    exact ((ih hn.2 fun e he => hlt e (List.mem_cons_of_mem _ he)).append_left _).trans
      (List.perm_append_comm.trans hup.symm)

theorem TableOk.flatMap_perm {s : State} (h : TableOk s) (F : Nat → Option Record → List Nat)
    (hF : ∀ id, F id none = []) :
    (s.records.flatMap fun e => F e.1 (some e.2)).Perm
      ((List.range Config.recordCount).flatMap fun id => F id (s.record? id)) :=
  flatMap_lookup_perm F hF (h.1.imp fun hlt => ne_of_lt hlt) h.2

theorem TableOk.heldCells_perm {s : State} (h : TableOk s) :
    s.heldCells.Perm ((List.range Config.recordCount).flatMap s.cellsOf) := by
  have hof : s.cellsOf = fun id => cellsIf (fun _ => true) (s.record? id) := funext (cellsOf_eq s)
  rw [hof]
  exact h.flatMap_perm (fun _ => cellsIf fun _ => true) fun _ => rfl

theorem TableOk.cellsWhere_eq {s : State} (h : TableOk s) (c : Record → Bool) :
    s.cellsWhere c = ((List.range Config.recordCount).flatMap fun id => cellsIf c (s.record? id)).length := by
  rw [cellsWhere_eq_cellsIn, cellsIn_eq_length]
  exact (h.flatMap_perm (fun _ => cellsIf c) fun _ => rfl).length_eq

section
variable {s t : State} {id : Nat} (hs : TableOk s) (ht : TableOk t) (hid : id < Config.recordCount)
  (hrec : ∀ j, j ≠ id → t.record? j = s.record? j)
include hs ht hid hrec

/-- A change of one record moves its cells into or out of the held ones. -/
theorem heldCells_update : (t.heldCells ++ s.cellsOf id).Perm (s.heldCells ++ t.cellsOf id) := by
  have hup := flatMap_update_perm (List.nodup_range (n := Config.recordCount)) (List.mem_range.2 hid)
    (f := t.cellsOf) (g := s.cellsOf) fun j hj => by rw [cellsOf_eq, cellsOf_eq, hrec j hj]
  exact ((ht.heldCells_perm.append_right _).trans hup).trans (hs.heldCells_perm.symm.append_right _)

/-- A change of one record moves its cells into or out of the count of its account. -/
theorem cellsWhere_update (c : Record → Bool) :
    t.cellsWhere c + (cellsIf c (s.record? id)).length = s.cellsWhere c + (cellsIf c (t.record? id)).length := by
  have hup := flatMap_update_perm (List.nodup_range (n := Config.recordCount)) (List.mem_range.2 hid)
    (f := fun j => cellsIf c (t.record? j)) (g := fun j => cellsIf c (s.record? j)) fun j hj => by rw [hrec j hj]
  simpa [ht.cellsWhere_eq, hs.cellsWhere_eq] using hup.length_eq

end

/-! ### The balance of the accounts -/

/-- Every cell that a record holds is charged to exactly one of the nine accounts. -/
theorem cells_by_account {l : List (Nat × Record)} (h : ∀ e ∈ l, e.2.cells = [] ↔ e.2.account = none) :
    (l.flatMap fun e => e.2.cells).length =
      cellsIn Record.chargedShared l +
        (allPorts.map fun p => cellsIn (Record.chargedTo p .express) l + cellsIn (Record.chargedTo p .bulk) l).sum := by
  induction l with
  | nil => rfl
  | cons e rest ih =>
    have hrest := ih fun e' he' => h e' (List.mem_cons_of_mem _ he')
    have he : e.2.cells.length =
        (if e.2.chargedShared then e.2.cells.length else 0) +
          (allPorts.map fun p => (if e.2.chargedTo p .express then e.2.cells.length else 0) +
            if e.2.chargedTo p .bulk then e.2.cells.length else 0).sum := by
      have hnone := h e List.mem_cons_self
      obtain ⟨_, r⟩ := e
      obtain ⟨_, src, _, cls, _, _, _, _, _, cells, account, _, _, _, _⟩ := r
      cases account with
      | none => simp_all [Record.chargedShared, Record.chargedTo]
      | some a => cases a <;> cases src <;> cases cls <;> simp [Record.chargedShared, Record.chargedTo, allPorts]
    simp only [List.flatMap_cons, List.length_append, cellsIn, List.map_cons, List.sum_cons, allPorts, List.map_nil,
      List.sum_nil] at hrest he ⊢
    omega

section
variable {s : State} (h : PoolOk s)
include h

theorem PoolOk.express_room (p : Port) : (s.port p).resExpress.charged ≤ (s.port p).resExpress.size :=
  h.reserveRoom p .express

theorem PoolOk.bulk_room (p : Port) : (s.port p).resBulk.charged ≤ (s.port p).resBulk.size := h.reserveRoom p .bulk

/-- The charged cells of the nine accounts and the free cells are the cells of the pool (R5). -/
theorem PoolOk.balance :
    s.sharedCharged + ((allPorts.map fun p => (s.port p).resExpress.charged + (s.port p).resBulk.charged).sum) +
      s.freeList.length = Config.cellCount := by
  have hcells := h.cells.length_eq
  have hheld := cells_by_account h.account
  have hres : ∀ p, (s.port p).resExpress.charged + (s.port p).resBulk.charged =
      cellsIn (Record.chargedTo p .express) s.records + cellsIn (Record.chargedTo p .bulk) s.records :=
    fun p => congrArg₂ (· + ·) (h.reserves p .express) (h.reserves p .bulk)
  have hshared : s.sharedCharged = cellsIn Record.chargedShared s.records := h.shared
  rw [List.length_append, List.length_range] at hcells
  simp only [← hres, ← hshared] at hheld
  have hdef : s.heldCells.length = (s.records.flatMap fun e => e.2.cells).length := rfl
  omega

theorem PoolOk.sharedSize_add : s.sharedSize + s.reserveSum = Config.cellCount := by
  have := h.sum
  simp only [State.sharedSize, Config.cellCount, Config.reserveSumMax] at *
  omega

/-- The free list is as long as the nine free counts together. -/
theorem PoolOk.freeList_length :
    s.freeList.length =
      (s.sharedSize - s.sharedCharged) +
        (allPorts.map fun p =>
          ((s.port p).resExpress.size - (s.port p).resExpress.charged) +
            ((s.port p).resBulk.size - (s.port p).resBulk.charged)).sum := by
  have hb := h.balance
  have hs := h.sharedSize_add
  have hr := h.sharedRoom
  have e0 := h.express_room .p0
  have e1 := h.express_room .p1
  have e2 := h.express_room .p2
  have e3 := h.express_room .p3
  have b0 := h.bulk_room .p0
  have b1 := h.bulk_room .p1
  have b2 := h.bulk_room .p2
  have b3 := h.bulk_room .p3
  simp only [reserveSum_eq, PortState.reserveSize, allPorts, List.map_cons, List.map_nil, List.sum_cons,
    List.sum_nil] at *
  omega

/-- What an account has free is on the free list. -/
theorem PoolOk.chargeable_le {p : Port} {c : Cls} {n : Nat} {a : Charge} (hc : s.chargeable p c n = some a) :
    n ≤ s.freeList.length := by
  have hlen := h.freeList_length
  simp only [allPorts, List.map_cons, List.map_nil, List.sum_cons, List.sum_nil] at hlen
  unfold State.chargeable at hc
  split at hc
  · rename_i hn
    have hport : ((s.port p).reserve c).free ≤
        ((s.port p).resExpress.size - (s.port p).resExpress.charged) +
          ((s.port p).resBulk.size - (s.port p).resBulk.charged) := by
      cases c <;> simp [PortState.reserve, Account.free]
    cases p <;> omega
  · split at hc
    · rename_i hn
      have hfree : s.sharedFree = s.sharedSize - s.sharedCharged := rfl
      omega
    · cases hc

end

/-! ### Operations that leave the pool alone -/

/-- The reserve sizes of `t` are those of `s`. -/
def SameSizes (s t : State) : Prop := ∀ q c, ((t.port q).reserve c).size = ((s.port q).reserve c).size

/-- Every record keeps its cells or gives all of them back. -/
def Returned (s t : State) : Prop := ∀ id, t.cellsOf id = s.cellsOf id ∨ t.cellsOf id = []

theorem sharedSize_congr {s t : State} (h : SameSizes s t) : t.sharedSize = s.sharedSize := by
  have hp : ∀ q, (t.port q).reserveSize = (s.port q).reserveSize := fun q =>
    congrArg₂ (· + ·) (h q .express) (h q .bulk)
  simp only [State.sharedSize, reserveSum_eq, hp]

theorem reserveSum_congr {s t : State} (h : SameSizes s t) : t.reserveSum = s.reserveSum := by
  have hp : ∀ q, (t.port q).reserveSize = (s.port q).reserveSize := fun q =>
    congrArg₂ (· + ·) (h q .express) (h q .bulk)
  simp only [reserveSum_eq, hp]

/-- A property of records that looks at what the pool reads alone. -/
def ReadsHolding (c : Record → Bool) : Prop := ∀ r x : Record, x.holding = r.holding → c x = c r

theorem readsHolding_true : ReadsHolding fun _ => true := fun _ _ _ => rfl

theorem readsHolding_chargedTo (p : Port) (c : Cls) : ReadsHolding (Record.chargedTo p c) := by
  intro r x h
  simp only [Record.holding, Prod.mk.injEq] at h
  simp only [Record.chargedTo, h]

theorem readsHolding_chargedShared : ReadsHolding Record.chargedShared := by
  intro r x h
  simp only [Record.holding, Prod.mk.injEq] at h
  simp only [Record.chargedShared, h]

section
variable {s t : State} (h : PoolSame s t)
include h

theorem PoolSame.cellsIf {c : Record → Bool} (hc : ReadsHolding c) (id : Nat) :
    cellsIf c (t.record? id) = cellsIf c (s.record? id) := by
  have hk := h.holding id
  cases ht : t.record? id <;> cases hs : s.record? id <;> simp only [ht, hs, Option.map_none, Option.map_some] at hk
  · rfl
  · cases hk
  · cases hk
  · rename_i x r
    have hx : x.holding = r.holding := Option.some.inj hk
    have hcells : x.cells = r.cells := congrArg (fun k => k.2.2.1) hx
    simp only [Machine.cellsIf, hc r x hx, hcells]

theorem PoolSame.sizes : SameSizes s t := fun q c => by rw [h.reserve]

theorem PoolSame.cellsOf (id : Nat) : t.cellsOf id = s.cellsOf id := by
  rw [cellsOf_eq, cellsOf_eq, h.cellsIf readsHolding_true]

theorem PoolSame.returned : Returned s t := fun id => .inl (h.cellsOf id)

theorem PoolSame.cellsWhere {c : Record → Bool} (hc : ReadsHolding c) (hs : TableOk s) :
    t.cellsWhere c = s.cellsWhere c := by
  simp only [(h.table hs).cellsWhere_eq, hs.cellsWhere_eq, h.cellsIf hc]

theorem PoolSame.keeps (hs : PoolOk s) : PoolOk t where
  table := h.table hs.table
  cells := by
    have ht := (h.table hs.table).heldCells_perm
    rw [show t.cellsOf = s.cellsOf from funext h.cellsOf] at ht
    rw [h.freeList]
    exact ((ht.trans hs.table.heldCells_perm.symm).append_left _).trans hs.cells
  account e he := by
    obtain ⟨x, hx, -, -, hcells, hacc⟩ := h.record ((h.table hs.table).mem_iff.1 he)
    rw [← hcells, ← hacc]
    exact hs.account (e.1, x) (hs.table.mem_iff.2 hx)
  reporting e he hst := by
    have hr := (h.table hs.table).mem_iff.1 he
    obtain ⟨x, hx, -, -, hcells, -⟩ := h.record hr
    obtain ⟨x', hx', hst'⟩ := h.reporting e.1 e.2 hr hst
    rw [← hcells, Option.some.inj (hx.symm.trans hx')]
    exact hs.reporting (e.1, x') (hs.table.mem_iff.2 hx') hst'
  reserves p c := by rw [h.reserve, h.cellsWhere (readsHolding_chargedTo p c) hs.table, hs.reserves]
  shared := by rw [h.sharedCharged, h.cellsWhere readsHolding_chargedShared hs.table, hs.shared]
  reserveRoom p c := by rw [h.reserve]; exact hs.reserveRoom p c
  sharedRoom := by rw [h.sharedCharged, sharedSize_congr h.sizes]; exact hs.sharedRoom
  sum := by rw [reserveSum_congr h.sizes]; exact hs.sum
  perPort p := (congrArg₂ (· + ·) (h.sizes p .express) (h.sizes p .bulk)).trans_le (hs.perPort p)

end

/-! ### A change of one record -/

/-- The laws of the pool after a change of record `id`: the free list takes what the record loses, and each charged
count what its account loses. -/
theorem PoolOk.replace {s t : State} (h : PoolOk s) {id : Nat} (hid : id < Config.recordCount) (ht : TableOk t)
    (hrec : ∀ j, j ≠ id → t.record? j = s.record? j)
    (hnew : ∀ r, t.record? id = some r → (r.cells = [] ↔ r.account = none) ∧ (r.state = .reporting → r.cells = []))
    (hfree : (t.freeList ++ t.cellsOf id).Perm (s.freeList ++ s.cellsOf id))
    (hres : ∀ q c, ((t.port q).reserve c).charged + (cellsIf (Record.chargedTo q c) (s.record? id)).length =
      ((s.port q).reserve c).charged + (cellsIf (Record.chargedTo q c) (t.record? id)).length)
    (hshared : t.sharedCharged + (cellsIf Record.chargedShared (s.record? id)).length =
      s.sharedCharged + (cellsIf Record.chargedShared (t.record? id)).length)
    (hsize : SameSizes s t) (hroom : ∀ q c, ((t.port q).reserve c).charged ≤ ((s.port q).reserve c).size)
    (hsharedRoom : t.sharedCharged ≤ s.sharedSize) : PoolOk t where
  table := ht
  cells := by
    have hheld := heldCells_update h.table ht hid hrec
    have hall : (t.freeList ++ t.heldCells ++ (t.cellsOf id ++ s.cellsOf id)).Perm
        (s.freeList ++ s.heldCells ++ (t.cellsOf id ++ s.cellsOf id)) := by
      rw [← Multiset.coe_eq_coe] at hfree hheld ⊢
      simp only [← Multiset.coe_add] at hfree hheld ⊢
      calc _ = ((t.freeList : Multiset Nat) + t.cellsOf id) + (t.heldCells + s.cellsOf id) := by abel
        _ = (s.freeList + s.cellsOf id) + (s.heldCells + t.cellsOf id) := by rw [hfree, hheld]
        _ = _ := by abel
    exact ((List.perm_append_right_iff _).1 hall).trans h.cells
  account e he := by
    have hr := ht.mem_iff.1 he
    by_cases hj : e.1 = id
    · exact (hnew e.2 (hj ▸ hr)).1
    · exact h.account e (h.table.mem_iff.2 (hrec _ hj ▸ hr))
  reporting e he := by
    have hr := ht.mem_iff.1 he
    by_cases hj : e.1 = id
    · exact (hnew e.2 (hj ▸ hr)).2
    · exact h.reporting e (h.table.mem_iff.2 (hrec _ hj ▸ hr))
  reserves p c := by
    have := cellsWhere_update h.table ht hid hrec (Record.chargedTo p c)
    have := h.reserves p c
    have := hres p c
    omega
  shared := by
    have := cellsWhere_update h.table ht hid hrec Record.chargedShared
    have := h.shared
    omega
  reserveRoom p c := by rw [hsize]; exact hroom p c
  sharedRoom := by rw [sharedSize_congr hsize]; exact hsharedRoom
  sum := by rw [reserveSum_congr hsize]; exact h.sum
  perPort p := (congrArg₂ (· + ·) (hsize p .express) (hsize p .bulk)).trans_le (h.perPort p)

/-! ### Accounts and records -/

@[simp] theorem PortState.reserve_setReserve_self (x : PortState) (c : Cls) (a : Account) :
    (x.setReserve c a).reserve c = a := by cases c <;> rfl

theorem PortState.reserve_setReserve_of_ne (x : PortState) {c k : Cls} (a : Account) (h : k ≠ c) :
    (x.setReserve c a).reserve k = x.reserve k := by
  cases c with
  | express => cases k with
    | express => exact absurd rfl h
    | bulk => rfl
  | bulk => cases k with
    | express => rfl
    | bulk => exact absurd rfl h

theorem PortState.setReserve_booked (x : PortState) (c : Cls) (a : Account) : (x.setReserve c a).booked = x.booked := by
  cases c <;> rfl

theorem PortState.setReserve_notices (x : PortState) (c : Cls) (a : Account) :
    (x.setReserve c a).notices = x.notices := by cases c <;> rfl

/-- A change of one reserve, at every port and class. -/
theorem reserve_modPort_setReserve (s : State) (p : Port) (c : Cls) (f : PortState → Account) (q : Port) (k : Cls) :
    ((s.modPort p fun x => x.setReserve c (f x)).port q).reserve k =
      if q = p ∧ k = c then f (s.port p) else (s.port q).reserve k := by
  rw [State.port_modPort]
  by_cases hq : q = p
  · subst hq
    by_cases hk : k = c
    · subst hk; simp
    · simp [hk, PortState.reserve_setReserve_of_ne _ _ hk]
  · simp [hq]

/-- The cells of a record that count on reserve(q, k). -/
theorem cellsIf_chargedTo (r : Record) (q : Port) (k : Cls) :
    (cellsIf (Record.chargedTo q k) (some r)).length =
      if r.account = some .reserve ∧ q = r.source ∧ k = r.cls then r.cells.length else 0 := by
  have hc : r.chargedTo q k = decide (r.account = some .reserve ∧ q = r.source ∧ k = r.cls) := by
    rw [Bool.eq_iff_iff]
    simp only [Record.chargedTo, Bool.and_eq_true, beq_iff_eq, decide_eq_true_eq]
    constructor
    · rintro ⟨⟨rfl, rfl⟩, h⟩; exact ⟨h, rfl, rfl⟩
    · rintro ⟨h, rfl, rfl⟩; exact ⟨⟨rfl, rfl⟩, h⟩
  simp only [cellsIf, hc, decide_eq_true_eq, apply_ite List.length, List.length_nil]

/-- The cells of a record that count on SHARED. -/
theorem cellsIf_chargedShared (r : Record) :
    (cellsIf Record.chargedShared (some r)).length = if r.account = some .shared then r.cells.length else 0 := by
  simp only [cellsIf, Record.chargedShared, beq_iff_eq, apply_ite List.length, List.length_nil]

section
variable (s : State) (p : Port) (c : Cls) (a : Option Charge) (l : List Nat)

@[simp] theorem returnCells_records : (s.returnCells p c a l).records = s.records := by
  unfold State.returnCells State.subCharge
  rcases a with _ | _ | _ <;> rfl

@[simp] theorem returnCells_record? (id : Nat) : (s.returnCells p c a l).record? id = s.record? id := by
  simp [State.record?]

@[simp] theorem returnCells_freeList : (s.returnCells p c a l).freeList = s.freeList ++ l := by
  unfold State.returnCells State.subCharge
  rcases a with _ | _ | _ <;> rfl

theorem returnCells_reserve (q : Port) (k : Cls) :
    ((s.returnCells p c a l).port q).reserve k =
      if a = some .reserve ∧ q = p ∧ k = c then
        ⟨((s.port p).reserve c).size, ((s.port p).reserve c).charged - l.length⟩
      else (s.port q).reserve k := by
  unfold State.returnCells State.subCharge
  rcases a with _ | _ | _
  · simp [State.port]
  · dsimp only
    rw [reserve_modPort_setReserve]
    simp [State.port]
  · simp [State.port]

theorem returnCells_sharedCharged :
    (s.returnCells p c a l).sharedCharged =
      if a = some .shared then s.sharedCharged - l.length else s.sharedCharged := by
  unfold State.returnCells State.subCharge
  rcases a with _ | _ | _ <;> simp

theorem sameSizes_returnCells : SameSizes s (s.returnCells p c a l) := by
  intro q k
  rw [returnCells_reserve]
  split
  · rename_i h; obtain ⟨-, rfl, rfl⟩ := h; rfl
  · rfl

theorem booksSame_returnCells : BooksSame s (s.returnCells p c a l) := by
  have hf : BooksSame s { s with freeList := s.freeList ++ l } :=
    booksSame_of_ports rfl (fun _ => rfl) fun _ => le_rfl
  unfold State.returnCells State.subCharge
  rcases a with _ | _ | _
  · exact hf
  · exact hf.trans (booksSame_modPort (PortState.setReserve_booked _ _ _) (PortState.setReserve_notices _ _ _))
  · exact hf.trans (booksSame_of_ports rfl (fun _ => rfl) fun _ => le_rfl)

end

theorem returnCells_notices (s : State) (p : Port) (c : Cls) (a : Option Charge) (l : List Nat) (q : Port) :
    ((s.returnCells p c a l).port q).notices = (s.port q).notices := by
  unfold State.returnCells State.subCharge
  rcases a with _ | _ | _
  · rfl
  · exact port_modPort_rel (R := fun x y => y.notices = x.notices) (fun _ => rfl)
      (PortState.setReserve_notices _ _ _) q
  · rfl

/-- `x` stands where `r` stood, with what is left of its cells: the same account, or none with no cells. -/
structure Record.LeftOf (r x : Record) : Prop where
  source : x.source = r.source
  cls : x.cls = r.cls
  account : x.account = none ∨ x.account = r.account
  cells : x.cells = [] ↔ x.account = none
  reporting : x.state = .reporting → x.cells = []

section
variable {r : Record} {o : Option Record} (h : ∀ x, o = some x → r.LeftOf x)
include h

/-- What is left of a record counts on the reserve that the record counted on. -/
theorem cellsIf_chargedTo_leftOf (q : Port) (k : Cls) :
    (cellsIf (Record.chargedTo q k) o).length =
      if r.account = some .reserve ∧ q = r.source ∧ k = r.cls then (cellsIf (fun _ => true) o).length else 0 := by
  cases o with
  | none => simp [cellsIf]
  | some x =>
    obtain ⟨hs, hc, hacc, hcells, -⟩ := h x rfl
    rw [cellsIf_chargedTo, hs, hc]
    rcases hacc with hn | ha
    · simp [cellsIf, hcells.2 hn]
    · simp [cellsIf, ha]

theorem cellsIf_chargedShared_leftOf :
    (cellsIf Record.chargedShared o).length =
      if r.account = some .shared then (cellsIf (fun _ => true) o).length else 0 := by
  cases o with
  | none => simp [cellsIf]
  | some x =>
    obtain ⟨-, -, hacc, hcells, -⟩ := h x rfl
    rw [cellsIf_chargedShared]
    rcases hacc with hn | ha
    · simp [cellsIf, hcells.2 hn]
    · simp [cellsIf, ha]

end

/-- A record counts on the charged count of its account. -/
theorem TableOk.length_cellsIf_le {s : State} (h : TableOk s) (c : Record → Bool) {id : Nat} {r : Record}
    (hr : s.record? id = some r) : (cellsIf c (some r)).length ≤ s.cellsWhere c := by
  refine List.le_sum_of_mem (List.mem_map.2 ⟨(id, r), h.mem_iff.2 hr, ?_⟩)
  simp only [cellsIf, apply_ite List.length, List.length_nil]

/-- Record `id`, which was `r`, gives the cells `l` back to the account they were charged to (R11, R37). -/
theorem PoolOk.giveBack {s t : State} (h : PoolOk s) {id : Nat} {r : Record} {l : List Nat}
    (hr : s.record? id = some r) (ht : TableOk t) (hrec : ∀ j, j ≠ id → t.record? j = s.record? j)
    (hleft : ∀ x, t.record? id = some x → r.LeftOf x) (hcells : r.cells.Perm (l ++ t.cellsOf id))
    (hacc : ∀ q, (t.port q).accounts = ((s.returnCells r.source r.cls r.account l).port q).accounts)
    (hfree : t.freeList = (s.returnCells r.source r.cls r.account l).freeList)
    (hshared : t.sharedCharged = (s.returnCells r.source r.cls r.account l).sharedCharged) : PoolOk t := by
  have hlen : r.cells.length = l.length + (cellsIf (fun _ => true) (t.record? id)).length := by
    rw [← cellsOf_eq, ← List.length_append]
    exact hcells.length_eq
  have hreserve : ∀ q k, (t.port q).reserve k = ((s.returnCells r.source r.cls r.account l).port q).reserve k := by
    rintro q (_ | _)
    · exact congrArg Prod.fst (hacc q)
    · exact congrArg Prod.snd (hacc q)
  have hsize : SameSizes s t := fun q k => by rw [hreserve]; exact sameSizes_returnCells s _ _ _ _ q k
  rw [returnCells_freeList] at hfree
  rw [returnCells_sharedCharged] at hshared
  have hcharged : ∀ q k, ((t.port q).reserve k).charged =
      if r.account = some .reserve ∧ q = r.source ∧ k = r.cls then ((s.port q).reserve k).charged - l.length
      else ((s.port q).reserve k).charged := by
    intro q k
    rw [hreserve, returnCells_reserve]
    split
    · rename_i hc; obtain ⟨-, rfl, rfl⟩ := hc; rfl
    · rfl
  refine h.replace (h.table.lt hr) ht hrec (fun x hx => ⟨(hleft x hx).cells, (hleft x hx).reporting⟩) ?_ ?_ ?_ hsize
    ?_ ?_
  · have hold : s.cellsOf id = r.cells := by simp [cellsOf_eq, hr, cellsIf]
    rw [hfree, hold, List.append_assoc]
    exact hcells.symm.append_left _
  · intro q k
    have hle := h.table.length_cellsIf_le (Record.chargedTo q k) hr
    rw [← h.reserves] at hle
    rw [hcharged, cellsIf_chargedTo_leftOf hleft, hr]
    rw [cellsIf_chargedTo] at hle ⊢
    split_ifs at hle ⊢ <;> omega
  · have hle := h.table.length_cellsIf_le Record.chargedShared hr
    rw [← h.shared] at hle
    rw [hshared, cellsIf_chargedShared_leftOf hleft, hr]
    rw [cellsIf_chargedShared] at hle ⊢
    split_ifs at hle ⊢ <;> omega
  · intro q k
    have := h.reserveRoom q k
    rw [hcharged]
    split_ifs <;> omega
  · have := h.sharedRoom
    rw [hshared]
    split_ifs <;> omega

/-- A record without cells becomes FREE. -/
theorem PoolOk.freeRecord {s : State} (h : PoolOk s) {id : Nat}
    (hc : ∀ r, s.record? id = some r → r.cells = []) : PoolOk (s.freeRecord id) := by
  cases hr : s.record? id with
  | none =>
    refine PoolSame.keeps ⟨TableOk.freeRecord, fun j => ?_, fun j x hx hst => ⟨x, ?_, hst⟩, fun _ => rfl, rfl, rfl⟩ h
    all_goals
      by_cases hj : j = id
      · subst hj; simp_all
      · simp_all [State.freeRecord_record?_of_ne]
  | some r =>
    have hnil := hc r hr
    have hnone : r.account = none := (h.account (id, r) (h.table.mem_iff.2 hr)).1 hnil
    refine h.giveBack (l := []) hr h.table.freeRecord (fun j hj => State.freeRecord_record?_of_ne _ _ hj)
      (fun x hx => by simp at hx) ?_ (fun q => ?_) ?_ ?_
    · simp [cellsOf_eq, cellsIf, hnil]
    all_goals simp [hnone, State.returnCells]

/-! ### Retire (R37) -/

/-- A record that waits for its receipt to be posted (R39, R97). -/
def Record.reported (r : Record) : Record :=
  { r with state := .reporting, cells := [], account := none, remaining := none }

theorem quiet_appendNotice (s : State) (p : Port) (n : Notice) : Quiet s (s.appendNotice p n) := by
  unfold State.appendNotice
  refine .trans ?_ (quiet_raise _ p .notice)
  exact quiet_modPort ⟨rfl, rfl, by simp⟩

/-- What the retire check of record `id` can do: nothing; or the cells of the record return, and it becomes FREE, or
waits at an ATTACHED source that holds 28 notices or more. -/
theorem retireOne_cases (s : State) (id : Nat) :
    s.retireOne id = s ∨ ∃ r, s.record? id = some r ∧ r.retires = true ∧
      (Quiet ((s.returnCells r.source r.cls r.account r.cells).freeRecord id) (s.retireOne id) ∨
        s.attached r.source = true ∧ Config.noticeThreshold ≤ (s.port r.source).notices.length ∧
          s.retireOne id = ((s.returnCells r.source r.cls r.account r.cells).putRecord id r.reported).modPort r.source
            fun q => { q with backlog := q.backlog ++ [id] }) := by
  cases hr : s.record? id with
  | none => exact .inl (retireOne_of_not fun r h => by simp [hr] at h)
  | some r =>
    cases hret : r.retires with
    | false => exact .inl (retireOne_of_not fun x h => by simp_all)
    | true =>
      refine .inr ⟨r, rfl, hret, ?_⟩
      unfold State.retireOne
      simp only [hr, hret, if_true]
      split
      · rename_i hc
        obtain ⟨-, hatt⟩ := Bool.and_eq_true_iff.1 hc
        unfold State.offerReceipt
        split
        · exact .inl (quiet_appendNotice _ _ _)
        · rename_i hn
          rw [returnCells_notices] at hn
          exact .inr ⟨hatt, not_lt.1 hn, rfl⟩
      · exact .inl (.refl _)

/-- An act within an event: the reserve sizes stand, records keep their cells or give them back, and the laws of the
pool are kept. -/
structure PoolKept (s t : State) : Prop where
  sizes : SameSizes s t
  returned : Returned s t
  pool : PoolOk s → PoolOk t

theorem SameSizes.refl (s : State) : SameSizes s s := fun _ _ => rfl

theorem SameSizes.trans {s t u : State} (h : SameSizes s t) (k : SameSizes t u) : SameSizes s u :=
  fun q c => (k q c).trans (h q c)

theorem Returned.trans {s t u : State} (h : Returned s t) (k : Returned t u) : Returned s u := fun id =>
  (k id).elim (fun hk => (h id).imp hk.trans hk.trans) .inr

theorem PoolSame.kept {s t : State} (h : PoolSame s t) : PoolKept s t := ⟨h.sizes, h.returned, h.keeps⟩

theorem Quiet.kept {s t : State} (h : Quiet s t) : PoolKept s t := h.pool.kept

theorem PoolKept.refl (s : State) : PoolKept s s := (PoolSame.refl s).kept

theorem PoolKept.trans {s t u : State} (h : PoolKept s t) (k : PoolKept t u) : PoolKept s u :=
  ⟨h.sizes.trans k.sizes, h.returned.trans k.returned, k.pool ∘ h.pool⟩

theorem PoolKept.foldl {α : Type} {f : State → α → State} (hf : ∀ s a, PoolKept s (f s a)) (l : List α) (s : State) :
    PoolKept s (l.foldl f s) := by
  induction l generalizing s with
  | nil => exact .refl s
  | cons a l ih => exact (hf s a).trans (ih (f s a))

/-- Where one record is left without cells and the others stand, cells are kept or given back. -/
theorem returned_of_one {s t : State} {id : Nat} (hrec : ∀ j, j ≠ id → t.record? j = s.record? j)
    (hid : t.cellsOf id = []) : Returned s t := by
  intro j
  by_cases hj : j = id
  · subst hj; exact .inr hid
  · left; rw [cellsOf_eq, cellsOf_eq, hrec j hj]

theorem retireOne_kept (s : State) (id : Nat) : PoolKept s (s.retireOne id) := by
  rcases retireOne_cases s id with h | ⟨r, hr, -, hq | ⟨-, -, h⟩⟩
  · rw [h]; exact .refl s
  · refine PoolKept.trans (t := (s.returnCells r.source r.cls r.account r.cells).freeRecord id) ?_ hq.kept
    have hrec : ∀ j, j ≠ id →
        ((s.returnCells r.source r.cls r.account r.cells).freeRecord id).record? j = s.record? j := fun j hj => by
      rw [State.freeRecord_record?_of_ne _ _ hj, returnCells_record?]
    refine ⟨sameSizes_returnCells s _ _ _ _, returned_of_one hrec ?_, fun h => ?_⟩
    · simp [cellsOf_eq, cellsIf]
    · exact h.giveBack hr (h.table.congr (returnCells_records ..)).freeRecord hrec (fun x hx => by simp at hx)
        (by simp [cellsOf_eq, cellsIf]) (fun _ => rfl) rfl rfl
  · rw [h]
    refine PoolKept.trans (t := (s.returnCells r.source r.cls r.account r.cells).putRecord id r.reported) ?_
      (poolSame_modPort rfl).kept
    have hrec : ∀ j, j ≠ id →
        ((s.returnCells r.source r.cls r.account r.cells).putRecord id r.reported).record? j = s.record? j :=
      fun j hj => by rw [State.putRecord_record?_of_ne _ _ _ hj, returnCells_record?]
    refine ⟨sameSizes_returnCells s _ _ _ _, returned_of_one hrec ?_, fun h => ?_⟩
    · simp [cellsOf_eq, cellsIf, Record.reported]
    · refine h.giveBack hr ((h.table.congr (returnCells_records ..)).putRecord (h.table.lt hr)) hrec (fun x hx => ?_)
        (by simp [cellsOf_eq, cellsIf, Record.reported]) (fun _ => rfl) rfl rfl
      rw [State.putRecord_record?_self] at hx
      cases hx
      exact ⟨rfl, rfl, .inl rfl, ⟨fun _ => rfl, fun _ => rfl⟩, fun _ => rfl⟩

theorem retireAll_kept (s : State) (ids : List Nat) : PoolKept s (s.retireAll ids) :=
  PoolKept.foldl retireOne_kept ids s

theorem retire_kept (s : State) (ids : List Nat) : PoolKept s (s.retire ids) :=
  (retireAll_kept s ids).trans (quiet_waitCheckIfFreed _ _).kept

/-! ### Abort, expiry and SEAL (R27, R28, R112) -/

theorem abort_poolSame (s : State) (id : Nat) (k : AbortCause) : PoolSame s (s.abort id k) := by
  refine .trans ?_ (quiet_cutReaders _ _).pool
  refine .trans ?_ (quiet_wakeReaders _ _).pool
  refine .trans (quiet_endDeliveries s id (abortFate k)).pool ?_
  exact poolSame_modRecord _ _ (fun _ => rfl) fun _ h => by cases h

theorem expire_poolSame (s : State) (id : Nat) : PoolSame s (s.expire id) := by
  unfold State.expire
  split
  · exact .refl s
  · split
    · split
      · exact (abort_poolSame s id _).trans (poolSame_modPort rfl)
      · exact (quiet_expireSealed s id).pool
    · exact .refl s

theorem expireMessages_kept (s : State) : PoolKept s s.expireMessages :=
  (PoolKept.foldl (fun t id => (expire_poolSame t id).kept) _ s).trans (retire_kept _ _)

/-- The record SEAL makes of `r`: SEALED, with the cells of its deposited length (R11, R27). -/
def Record.trimmed (r : Record) : Record :=
  { r with
    state := .sealed, cells := r.cells.take (cellsFor r.deposited),
    account := if cellsFor r.deposited = 0 then none else r.account }

/-- SEAL changes the record and returns its surplus cells; the space-wait check follows. -/
theorem quiet_trim (s : State) (id : Nat) (r : Record) :
    Quiet ((s.putRecord id r.trimmed).returnCells r.source r.cls r.account (r.cells.drop (cellsFor r.deposited)))
      (s.trim id r) := quiet_waitCheckIfFreed _ _

theorem trim_sizes (s : State) (id : Nat) (r : Record) : SameSizes s (s.trim id r) :=
  SameSizes.trans (t := s.putRecord id r.trimmed) (.refl s)
    ((sameSizes_returnCells _ _ _ _ _).trans (quiet_trim s id r).pool.sizes)

theorem PoolOk.trim {s : State} (h : PoolOk s) {id : Nat} {r : Record} (hr : s.record? id = some r) :
    PoolOk (s.trim id r) := by
  refine (quiet_trim s id r).pool.keeps ?_
  have hnone : r.cells = [] ↔ r.account = none := h.account (id, r) (h.table.mem_iff.2 hr)
  have hself : ((s.putRecord id r.trimmed).returnCells r.source r.cls r.account
      (r.cells.drop (cellsFor r.deposited))).record? id = some r.trimmed := by simp
  refine h.giveBack (l := r.cells.drop (cellsFor r.deposited)) hr
    ((h.table.putRecord (h.table.lt hr)).congr (returnCells_records ..)) (fun j hj => ?_) (fun x hx => ?_) ?_
    (fun q => ?_) ?_ ?_
  · rw [returnCells_record?, State.putRecord_record?_of_ne _ _ _ hj]
  · rw [hself] at hx
    cases hx
    refine ⟨rfl, rfl, ?_, ?_, nofun⟩
    · by_cases hm : cellsFor r.deposited = 0 <;> simp [Record.trimmed, hm]
    · by_cases hm : cellsFor r.deposited = 0 <;> simp [Record.trimmed, hm, hnone]
  · rw [cellsOf_eq, hself]
    show r.cells.Perm (r.cells.drop _ ++ r.cells.take _)
    exact (List.perm_append_comm.trans (List.Perm.of_eq (List.take_append_drop _ _))).symm
  · cases r.account with
    | none => rfl
    | some a => cases a <;> rfl
  · simp
  · simp [returnCells_sharedCharged]

/-! ### OPEN (R8, R9, R52) -/

section
variable (s : State) (p : Port) (c : Cls) (a : Option Charge) (n : Nat)

@[simp] theorem chargeCells_records : (s.chargeCells p c a n).records = s.records := by
  unfold State.chargeCells State.addCharge
  rcases a with _ | _ | _ <;> rfl

@[simp] theorem chargeCells_record? (id : Nat) : (s.chargeCells p c a n).record? id = s.record? id := by
  simp [State.record?]

theorem chargeCells_freeList :
    (s.chargeCells p c a n).freeList = if a = none then s.freeList else s.freeList.drop n := by
  unfold State.chargeCells State.addCharge
  rcases a with _ | _ | _ <;> rfl

theorem chargeCells_reserve (q : Port) (k : Cls) :
    ((s.chargeCells p c a n).port q).reserve k =
      if a = some .reserve ∧ q = p ∧ k = c then ⟨((s.port p).reserve c).size, ((s.port p).reserve c).charged + n⟩
      else (s.port q).reserve k := by
  unfold State.chargeCells State.addCharge
  rcases a with _ | _ | _
  · simp
  · dsimp only
    rw [reserve_modPort_setReserve]
    simp [State.port]
  · simp [State.port]

theorem chargeCells_sharedCharged :
    (s.chargeCells p c a n).sharedCharged = if a = some .shared then s.sharedCharged + n else s.sharedCharged := by
  unfold State.chargeCells State.addCharge
  rcases a with _ | _ | _ <;> simp

theorem sameSizes_chargeCells : SameSizes s (s.chargeCells p c a n) := by
  intro q k
  rw [chargeCells_reserve]
  split
  · rename_i h; obtain ⟨-, rfl, rfl⟩ := h; rfl
  · rfl

theorem booksSame_chargeCells : BooksSame s (s.chargeCells p c a n) := by
  have hf : BooksSame s { s with freeList := s.freeList.drop n } :=
    booksSame_of_ports rfl (fun _ => rfl) fun _ => le_rfl
  unfold State.chargeCells State.addCharge
  rcases a with _ | _ | _
  · exact .refl s
  · exact hf.trans (booksSame_modPort (PortState.setReserve_booked _ _ _) (PortState.setReserve_notices _ _ _))
  · exact hf.trans (booksSame_of_ports rfl (fun _ => rfl) fun _ => le_rfl)

end

/-- What a charge decision leaves room for (R8). -/
theorem chargeable_room {s : State} {p : Port} {c : Cls} {n : Nat} {a : Charge} (h : s.chargeable p c n = some a) :
    (a = .reserve → n ≤ ((s.port p).reserve c).free) ∧ (a = .shared → n ≤ s.sharedFree) := by
  unfold State.chargeable at h
  split at h
  · rename_i hn
    cases h
    exact ⟨fun _ => hn, nofun⟩
  · split at h
    · rename_i hn
      cases h
      exact ⟨nofun, fun _ => hn.1⟩
    · cases h

/-- What the account decided for `n` cells says: none for no cells, and room in the account otherwise (R7, R8). -/
theorem chargeFor_room {s : State} (h : PoolOk s) {p : Port} {c : Cls} {n : Nat} {a : Option Charge}
    (hc : s.chargeFor p c n = some a) :
    n ≤ s.freeList.length ∧ (n = 0 ↔ a = none) ∧
      (a = some .reserve → ((s.port p).reserve c).charged + n ≤ ((s.port p).reserve c).size) ∧
      (a = some .shared → s.sharedCharged + n ≤ s.sharedSize) := by
  unfold State.chargeFor at hc
  split at hc
  · rename_i hn
    cases hc
    simp [hn]
  · rename_i hn
    obtain ⟨b, hb, rfl⟩ := Option.map_eq_some_iff.1 hc
    obtain ⟨hres, hsh⟩ := chargeable_room hb
    have hroom := h.reserveRoom p c
    have hshared := h.sharedRoom
    simp only [Account.free, State.sharedFree] at hres hsh
    refine ⟨h.chargeable_le hb, by simp [hn], fun hab => ?_, fun hab => ?_⟩
    · have := hres (Option.some.inj hab); omega
    · have := hsh (Option.some.inj hab); omega

section
variable (s : State) (p : Port) (c : Cls) (a : OpenArgs) (id : Nat) (members : PortSet) (account : Option Charge)

/-- OPEN before the charge: the record stands in its place and intake is claimed. -/
def State.claimed : State :=
  ((s.putRecord id (s.newRecord p c a members account)).modPort p fun q => { q with serial := q.serial + 1 }).claim
    members

/-- OPEN up to its early publication: the cells are charged, and the deposit context names the record. -/
def State.opened : State :=
  ((s.claimed p c a id members account).chargeCells p c account (cellsFor a.declared)).modPort p fun q =>
    { q with deposit := .opened id }

theorem quiet_claimed :
    Quiet (s.putRecord id (s.newRecord p c a members account)) (s.claimed p c a id members account) := by
  refine .trans ?_ (quiet_claim _ _)
  exact quiet_modPort ⟨rfl, rfl, le_rfl⟩

theorem claimed_records :
    (s.claimed p c a id members account).records = insertRecord id (s.newRecord p c a members account) s.records := by
  unfold State.claimed
  rw [claim_part]
  rfl

theorem claimed_record? (j : Nat) :
    (s.claimed p c a id members account).record? j =
      (s.putRecord id (s.newRecord p c a members account)).record? j := by
  simp only [State.record?, claimed_records, State.putRecord]

theorem quiet_completeOpen :
    Quiet (s.opened p c a id members account) (s.completeOpen p c a id members account) := by
  unfold State.completeOpen
  dsimp only
  split
  · exact quiet_publish _ _
  · exact .refl _

theorem completeOpen_sizes : SameSizes s (s.completeOpen p c a id members account) := by
  refine SameSizes.trans ?_ (quiet_completeOpen ..).pool.sizes
  refine SameSizes.trans ?_ (poolSame_modPort rfl).sizes
  refine SameSizes.trans ?_ (sameSizes_chargeCells _ _ _ _ _)
  exact SameSizes.trans (t := s.putRecord id _) (.refl s) (quiet_claimed ..).pool.sizes

end

theorem PoolOk.completeOpen {s : State} (h : PoolOk s) {p : Port} {c : Cls} {a : OpenArgs} {id : Nat}
    {members : PortSet} {account : Option Charge} (hid : id < Config.recordCount) (hnone : s.record? id = none)
    (hc : s.chargeFor p c (cellsFor a.declared) = some account) :
    PoolOk (s.completeOpen p c a id members account) := by
  refine (quiet_completeOpen ..).pool.keeps (PoolSame.keeps (poolSame_modPort rfl) ?_)
  obtain ⟨hlen, hzero, hres, hsh⟩ := chargeFor_room h hc
  have hq := (quiet_claimed s p c a id members account).pool
  have hnew : ((s.claimed p c a id members account).chargeCells p c account (cellsFor a.declared)).record? id =
      some (s.newRecord p c a members account) := by
    rw [chargeCells_record?, claimed_record?, State.putRecord_record?_self]
  have hcells : (s.newRecord p c a members account).cells = s.freeList.take (cellsFor a.declared) := rfl
  have hcharged : ∀ q k,
      (((s.claimed p c a id members account).chargeCells p c account (cellsFor a.declared)).port q).reserve k =
        if account = some .reserve ∧ q = p ∧ k = c then
          ⟨((s.port p).reserve c).size, ((s.port p).reserve c).charged + cellsFor a.declared⟩
        else (s.port q).reserve k := by
    intro q k
    rw [chargeCells_reserve, hq.reserve, hq.reserve]
    rfl
  have hshared : ((s.claimed p c a id members account).chargeCells p c account (cellsFor a.declared)).sharedCharged =
      if account = some .shared then s.sharedCharged + cellsFor a.declared else s.sharedCharged := by
    rw [chargeCells_sharedCharged, hq.sharedCharged]
    rfl
  refine h.replace hid ?_ (fun j hj => ?_) (fun x hx => ?_) ?_ (fun q k => ?_) ?_ ?_ (fun q k => ?_) ?_
  · exact (hq.table (h.table.putRecord hid)).congr (chargeCells_records ..)
  · rw [chargeCells_record?, claimed_record?, State.putRecord_record?_of_ne _ _ _ hj]
  · rw [hnew] at hx
    cases hx
    refine ⟨?_, nofun⟩
    rw [hcells, ← List.length_eq_zero_iff, List.length_take, min_eq_left hlen]
    exact hzero
  · rw [cellsOf_eq, cellsOf_eq, hnew, hnone, chargeCells_freeList, hq.freeList]
    show ((if account = none then s.freeList else s.freeList.drop _) ++ s.freeList.take _).Perm (s.freeList ++ [])
    rw [List.append_nil]
    split
    · rename_i hn
      simp [hzero.2 hn]
    · exact List.perm_append_comm.trans (List.Perm.of_eq (List.take_append_drop _ _))
  · rw [hcharged, hnew, hnone, cellsIf_chargedTo, hcells, List.length_take, min_eq_left hlen]
    show _ + 0 = _ + if account = some .reserve ∧ q = p ∧ k = c then _ else 0
    split
    · rename_i hk; obtain ⟨-, rfl, rfl⟩ := hk; rfl
    · rfl
  · rw [hshared, hnew, hnone, cellsIf_chargedShared, hcells, List.length_take, min_eq_left hlen]
    show _ + 0 = _ + if account = some .shared then _ else 0
    split <;> rfl
  · intro q k
    rw [hcharged]
    split
    · rename_i hk; obtain ⟨-, rfl, rfl⟩ := hk; rfl
    · rfl
  · have := h.reserveRoom q k
    rw [hcharged]
    split
    · rename_i hk; obtain ⟨ha, rfl, rfl⟩ := hk; exact hres ha
    · exact this
  · have := h.sharedRoom
    rw [hshared]
    split
    · rename_i ha; exact hsh ha
    · exact this

/-! ### RESERVE (R15, R16) -/

/-- The sum of the reserve sizes follows those of the changed port. -/
theorem reserveSum_modPort (s : State) (p : Port) (f : PortState → PortState) :
    (s.modPort p f).reserveSum + (s.port p).reserveSize = s.reserveSum + (f (s.port p)).reserveSize := by
  simp only [reserveSum_eq, State.port_modPort]
  cases p <;> simp <;> omega

theorem PortState.reserveSize_setReserve (x : PortState) (c : Cls) (a : Account) :
    (x.setReserve c a).reserveSize + (x.reserve c).size = x.reserveSize + a.size := by
  cases c <;> simp only [PortState.setReserve, PortState.reserve, PortState.reserveSize] <;> omega

theorem Cls.other_ne (c : Cls) : c.other ≠ c := by cases c <;> decide

theorem PortState.reserveSize_eq (x : PortState) (c : Cls) :
    x.reserveSize = (x.reserve c).size + (x.reserve c.other).size := by
  cases c
  · rfl
  · exact Nat.add_comm _ _

theorem reserveSize_le_reserveSum (s : State) (p : Port) : (s.port p).reserveSize ≤ s.reserveSum := by
  rw [reserveSum_eq]
  cases p <;> omega

/-- The granted size leaves room for what is charged, in the reserve, in the port, in the sum and in SHARED (R4, R15,
R16). -/
theorem PoolOk.reserveGrant {s : State} (h : PoolOk s) (p : Port) (c : Cls) (r : Nat) :
    ((s.port p).reserve c).charged ≤ s.reserveGrant p c r ∧
      s.reserveGrant p c r + ((s.port p).reserve c.other).size ≤ Config.reservePortMax ∧
      s.reserveSum - ((s.port p).reserve c).size + s.reserveGrant p c r ≤ Config.reserveSumMax ∧
      s.reserveSum - ((s.port p).reserve c).size + s.reserveGrant p c r + s.sharedCharged ≤ Config.cellCount := by
  have hport := h.perPort p
  have hroom := h.reserveRoom p c
  have hsum := h.sum
  have hshared := h.sharedRoom
  have hle := reserveSize_le_reserveSum s p
  rw [PortState.reserveSize_eq _ c] at hle hport
  unfold State.reserveGrant
  simp only [State.sharedFree, State.sharedSize, Config.reservePortMax, Config.reserveSumMax, Config.cellCount] at *
  split <;> omega

/-- The reserve with the granted size, before the space-wait check. -/
def State.granted (s : State) (p : Port) (c : Cls) (r : Nat) : State :=
  s.modPort p fun q => q.setReserve c ⟨s.reserveGrant p c r, (q.reserve c).charged⟩

theorem quiet_resizeReserve (s : State) (p : Port) (c : Cls) (r : Nat) :
    Quiet (s.granted p c r) (s.resizeReserve p c r) := by
  unfold State.resizeReserve
  dsimp only
  split
  · exact .refl _
  · exact quiet_waitCheck _

theorem granted_reserve (s : State) (p : Port) (c : Cls) (r : Nat) (q : Port) (k : Cls) :
    ((s.granted p c r).port q).reserve k =
      if q = p ∧ k = c then ⟨s.reserveGrant p c r, ((s.port p).reserve c).charged⟩ else (s.port q).reserve k :=
  reserve_modPort_setReserve s p c (fun x => ⟨s.reserveGrant p c r, (x.reserve c).charged⟩) q k

theorem PoolOk.granted {s : State} (h : PoolOk s) (p : Port) (c : Cls) (r : Nat) : PoolOk (s.granted p c r) := by
  obtain ⟨hroom, hport, hsum, hshared⟩ := h.reserveGrant p c r
  have hcharged : ∀ q k, (((s.granted p c r).port q).reserve k).charged = ((s.port q).reserve k).charged := by
    intro q k
    rw [granted_reserve]
    split
    · rename_i hk; obtain ⟨rfl, rfl⟩ := hk; rfl
    · rfl
  have hnew : (s.granted p c r).reserveSum + ((s.port p).reserve c).size = s.reserveSum + s.reserveGrant p c r := by
    have h1 := reserveSum_modPort s p fun q => q.setReserve c ⟨s.reserveGrant p c r, (q.reserve c).charged⟩
    have h2 := (s.port p).reserveSize_setReserve c ⟨s.reserveGrant p c r, ((s.port p).reserve c).charged⟩
    have h3 : (s.granted p c r).reserveSum =
        (s.modPort p fun q => q.setReserve c ⟨s.reserveGrant p c r, (q.reserve c).charged⟩).reserveSum := rfl
    dsimp only at h1 h2
    omega
  exact
    { table := h.table
      cells := h.cells
      account := h.account
      reporting := h.reporting
      reserves := fun q k => (hcharged q k).trans (h.reserves q k)
      shared := h.shared
      reserveRoom := fun q k => by
        rw [granted_reserve]
        split
        · exact hroom
        · exact h.reserveRoom q k
      sharedRoom := by
        show s.sharedCharged ≤ Config.cellCount - (s.granted p c r).reserveSum
        omega
      sum := by omega
      perPort := fun q => by
        rw [PortState.reserveSize_eq _ c, granted_reserve, granted_reserve,
          if_neg fun hk : q = p ∧ c.other = c => c.other_ne hk.2]
        split
        · rename_i hk; obtain ⟨rfl, -⟩ := hk; exact hport
        · rw [← PortState.reserveSize_eq]; exact h.perPort q }

theorem PoolOk.resizeReserve {s : State} (h : PoolOk s) (p : Port) (c : Cls) (r : Nat) :
    PoolOk (s.resizeReserve p c r) := (quiet_resizeReserve s p c r).pool.keeps (h.granted p c r)

/-- A RESERVE of port `p` leaves the reserves of the other ports. -/
theorem resizeReserve_size_of_ne (s : State) {p q : Port} (c k : Cls) (r : Nat) (h : q ≠ p) :
    (((s.resizeReserve p c r).port q).reserve k).size = ((s.port q).reserve k).size := by
  rw [(quiet_resizeReserve s p c r).pool.reserve, granted_reserve, if_neg fun hk => h hk.1]

/-! ### Dissolution (R21) -/

/-- A record of port `p` after the dissolution of its reserves. -/
def Record.dissolved (p : Port) (r : Record) : Record :=
  if r.source = p ∧ r.account = some .reserve then { r with account := some .shared } else r

theorem Record.dissolved_cells (p : Port) (r : Record) : (r.dissolved p).cells = r.cells := by
  unfold Record.dissolved; split <;> rfl

theorem Record.dissolved_standing (p : Port) (r : Record) : (r.dissolved p).standing = r.standing := by
  unfold Record.dissolved; split <;> rfl

theorem Record.dissolved_account (p : Port) (r : Record) : (r.dissolved p).account = none ↔ r.account = none := by
  unfold Record.dissolved; split <;> simp_all

/-- No record counts on a reserve of the departed port, and the other reserves count what they did. -/
theorem Record.chargedTo_dissolved (p q : Port) (k : Cls) (r : Record) :
    (r.dissolved p).chargedTo q k = if q = p then false else r.chargedTo q k := by
  unfold Record.dissolved Record.chargedTo
  by_cases hd : r.source = p ∧ r.account = some .reserve
  · obtain ⟨rfl, ha⟩ := hd
    by_cases hq : q = r.source
    · simp [ha, hq]
    · simp [ha, hq, Ne.symm hq]
  · rw [if_neg hd]
    by_cases hq : q = p
    · subst hq; simp; tauto
    · simp [hq]

/-- SHARED counts what it did and what the reserves of the departed port did. -/
theorem Record.chargedShared_dissolved (p : Port) (r : Record) :
    (if (r.dissolved p).chargedShared then (r.dissolved p).cells.length else 0) =
      (if r.chargedShared then r.cells.length else 0) + (if r.chargedTo p .express then r.cells.length else 0) +
        if r.chargedTo p .bulk then r.cells.length else 0 := by
  rw [Record.dissolved_cells]
  unfold Record.dissolved Record.chargedShared Record.chargedTo
  by_cases hd : r.source = p ∧ r.account = some .reserve
  · obtain ⟨rfl, ha⟩ := hd
    cases r.cls <;> simp [ha]
  · rw [if_neg hd]
    have hno : ∀ k, (r.source == p && r.cls == k && r.account == some .reserve) = false := by
      intro k; simp; tauto
    simp [hno]

section
variable (s : State) (p : Port)

theorem dissolve_records : (s.dissolve p).records = s.records.map fun e => (e.1, e.2.dissolved p) := rfl

theorem dissolve_sharedCharged :
    (s.dissolve p).sharedCharged = s.sharedCharged + (s.port p).resExpress.charged + (s.port p).resBulk.charged := rfl

theorem dissolve_reserve (q : Port) (k : Cls) :
    ((s.dissolve p).port q).reserve k = if q = p then ⟨0, 0⟩ else (s.port q).reserve k := by
  unfold State.dissolve
  dsimp only
  rw [State.port_modPort]
  split
  · cases k <;> rfl
  · rfl

theorem booksSame_dissolve : BooksSame s (s.dissolve p) := by
  have hs : BooksSame s
      { s with sharedCharged := s.sharedCharged + (s.port p).resExpress.charged + (s.port p).resBulk.charged } :=
    booksSame_of_ports rfl (fun _ => rfl) fun _ => le_rfl
  have hm := hs.trans (booksSame_mapRecords _ (Record.dissolved_standing p))
  unfold State.dissolve
  exact hm.trans (booksSame_modPort rfl rfl)

end

theorem cellsIn_map (c : Record → Bool) (f : Record → Record) (l : List (Nat × Record)) :
    cellsIn c (l.map fun e => (e.1, f e.2)) =
      (l.map fun e => if c (f e.2) then (f e.2).cells.length else 0).sum := by
  simp [cellsIn, List.map_map, Function.comp_def]

theorem PoolOk.dissolve {s : State} (h : PoolOk s) (p : Port) : PoolOk (s.dissolve p) := by
  have hexpress : (s.port p).resExpress.charged = cellsIn (Record.chargedTo p .express) s.records :=
    h.reserves p .express
  have hbulk : (s.port p).resBulk.charged = cellsIn (Record.chargedTo p .bulk) s.records := h.reserves p .bulk
  have hshared : s.sharedCharged = cellsIn Record.chargedShared s.records := h.shared
  have hsum : (s.dissolve p).reserveSum + (s.port p).reserveSize = s.reserveSum := reserveSum_modPort _ p _
  exact
    { table := h.table.mapRecords (Record.dissolved p)
      cells := by
        have hheld : (s.dissolve p).heldCells = s.heldCells := by
          simp only [State.heldCells, dissolve_records, List.flatMap_map, Record.dissolved_cells]
        rw [hheld]
        exact h.cells
      account := fun e he => by
        rw [dissolve_records] at he
        obtain ⟨x, hx, rfl⟩ := List.mem_map.1 he
        dsimp only
        rw [Record.dissolved_cells, Record.dissolved_account]
        exact h.account x hx
      reporting := fun e he hst => by
        rw [dissolve_records] at he
        obtain ⟨x, hx, rfl⟩ := List.mem_map.1 he
        dsimp only
        rw [Record.dissolved_cells]
        exact h.reporting x hx ((congrArg Prod.fst (Record.dissolved_standing p x.2)).symm.trans hst)
      reserves := fun q k => by
        rw [cellsWhere_eq_cellsIn, dissolve_records, cellsIn_map, dissolve_reserve]
        simp only [Record.chargedTo_dissolved, Record.dissolved_cells]
        split
        · simp
        · exact h.reserves q k
      shared := by
        rw [cellsWhere_eq_cellsIn, dissolve_records, cellsIn_map, dissolve_sharedCharged, hshared, hexpress, hbulk]
        simp only [Record.chargedShared_dissolved, List.sum_map_add, cellsIn]
      reserveRoom := fun q k => by
        rw [dissolve_reserve]
        split
        · exact le_rfl
        · exact h.reserveRoom q k
      sharedRoom := by
        have := h.sharedRoom
        have := h.sum
        have := h.express_room p
        have := h.bulk_room p
        rw [dissolve_sharedCharged]
        simp only [State.sharedSize, PortState.reserveSize, Config.cellCount, Config.reserveSumMax] at *
        omega
      sum := (Nat.le_of_add_right_le hsum.le).trans h.sum
      perPort := fun q => by
        rw [PortState.reserveSize_eq _ .express, dissolve_reserve, dissolve_reserve]
        split
        · simp
        · exact h.perPort q }

/-! ### Chip reset and the tick (R12, R38, R140) -/

theorem PoolOk.chipReset (s : State) : PoolOk s.chipReset := by
  have hport : ∀ q, (s.chipReset).port q = (s.port q).chipReset := fun q => PerPort.get_map _ _ _
  have hzero : ∀ q c, ((s.chipReset).port q).reserve c = ⟨0, 0⟩ := fun q c => by rw [hport]; cases c <;> rfl
  have hsum : (s.chipReset).reserveSum = 0 := by simp only [reserveSum_eq, hport]; rfl
  exact
    { table := ⟨List.Pairwise.nil, fun _ he => nomatch he⟩
      cells := by
        have hfree : (s.chipReset).freeList = List.range Config.cellCount := by simp only [State.chipReset, State.reset]
        have hheld : (s.chipReset).heldCells = [] := rfl
        rw [hfree, hheld, List.append_nil]
      account := fun _ he => nomatch he
      reporting := fun _ he => nomatch he
      reserves := fun q c => by rw [hzero]; rfl
      shared := rfl
      reserveRoom := fun q c => by rw [hzero]
      sharedRoom := Nat.zero_le _
      sum := by rw [hsum]; exact Nat.zero_le _
      perPort := fun q => by rw [hport]; exact Nat.zero_le _ }

/-- The cells one event returned, put in order, are the cells it returned. -/
theorem PoolOk.returnedInOrder {s t : State} (hs : PoolOk s) (ht : PoolOk t) (h : Returned s t) :
    PoolOk (s.returnedInOrder t) := by
  have hgone := hs.table.flatMap_perm
    (fun id o => if t.cellsOf id = [] then cellsIf (fun _ => true) o else []) fun id => by simp [cellsIf]
  have hall : ((List.range Config.recordCount).flatMap fun id =>
      (if t.cellsOf id = [] then cellsIf (fun _ => true) (s.record? id) else []) ++ t.cellsOf id) =
        (List.range Config.recordCount).flatMap s.cellsOf := by
    refine List.flatMap_congr fun id _ => ?_
    rw [← cellsOf_eq]
    split
    · rename_i hnil; rw [hnil, List.append_nil]
    · rename_i hne; rw [(h id).resolve_right hne, List.nil_append]
  exact
    { table := ht.table
      cells := by
        show (s.freeList ++ (s.records.flatMap fun e => if t.cellsOf e.1 = [] then e.2.cells else []) ++
          t.heldCells).Perm _
        rw [List.append_assoc]
        refine .trans (.append_left _ ?_) hs.cells
        refine (hgone.append ht.table.heldCells_perm).trans ((List.flatMap_append_perm _ _ _).trans ?_)
        rw [hall]
        exact hs.table.heldCells_perm.symm
      account := ht.account
      reporting := ht.reporting
      reserves := ht.reserves
      shared := ht.shared
      reserveRoom := ht.reserveRoom
      sharedRoom := ht.sharedRoom
      sum := ht.sum
      perPort := ht.perPort }

end Sys2Proof.Machine
end

section
/-! SUPPORT. The books of the contexts and backlogs (R45, R97, R102) under each operation that moves them. Within an
event the clauses of one port can stand open: `BooksBut` leaves them out. -/

namespace Sys2Proof.Machine

open Sys2Proof

/-! ### Where a record stands -/

/-- Record `id` of source `p` is in state `st`. -/
abbrev State.stands (s : State) (st : RecState) (p : Port) (id : Nat) : Prop :=
  ∃ r, s.record? id = some r ∧ r.state = st ∧ r.source = p

section
variable {s : State} {id j : Nat} {st : RecState} {p : Port} {r : Record}

theorem stands_iff (hr : s.record? id = some r) : s.stands st p id ↔ r.state = st ∧ r.source = p := by
  simp [State.stands, hr]

theorem stands_freeRecord : (s.freeRecord id).stands st p j ↔ j ≠ id ∧ s.stands st p j := by
  by_cases hj : j = id
  · subst hj; simp [State.stands]
  · simp [State.stands, State.freeRecord_record?_of_ne _ _ hj, hj]

theorem stands_putRecord_self : (s.putRecord id r).stands st p id ↔ r.state = st ∧ r.source = p := by
  simp [State.stands]

theorem stands_putRecord_of_ne (hj : j ≠ id) : (s.putRecord id r).stands st p j ↔ s.stands st p j := by
  simp only [State.stands, State.putRecord_record?_of_ne _ _ _ hj]

/-- A record that stands otherwise before and after a change of it is neither lost nor gained. -/
theorem stands_putRecord {x : Record} (hx : s.record? id = some x) (hold : ¬ (x.state = st ∧ x.source = p))
    (hnew : ¬ (r.state = st ∧ r.source = p)) : (s.putRecord id r).stands st p j ↔ s.stands st p j := by
  by_cases hj : j = id
  · subst hj
    exact iff_of_false (hnew ∘ stands_putRecord_self.1) (hold ∘ (stands_iff hx).1)
  · exact stands_putRecord_of_ne hj

end

theorem BooksSame.stands {s t : State} (h : BooksSame s t) (st : RecState) (p : Port) (id : Nat) :
    t.stands st p id ↔ s.stands st p id := by
  constructor
  · rintro ⟨r, hr, hst, hp⟩
    obtain ⟨x, hx, hxs, hxp⟩ := h.record hr
    exact ⟨x, hx, hxs.trans hst, hxp.trans hp⟩
  · rintro ⟨r, hr, hst, hp⟩
    obtain ⟨x, hx, hxs, hxp⟩ := h.record' hr
    exact ⟨x, hx, hxs.trans hst, hxp.trans hp⟩

/-! ### The books, port by port -/

/-- The books of port `x`, whose OPEN records are `opn` and whose REPORTING records are `rep`. `d` leaves out its
deposit context, and `m` what ties its contexts to its mode. -/
structure PortBooks (opn rep : Nat → Prop) (d m : Prop) (x : PortState) : Prop where
  deposit : ¬ d → ∀ id, x.deposit = .opened id ↔ opn id
  depositMode : ¬ m → x.deposit ≠ .none → x.mode = .attached
  backlog : ∀ id, id ∈ x.backlog ↔ rep id
  backlogOnce : x.backlog.Nodup
  backlogMode : ¬ m → x.backlog ≠ [] → x.mode = .attached
  backlogFull : x.backlog ≠ [] → Config.noticeThreshold ≤ x.notices.length

/-- The books, but for the deposit context of the port that `d` names and for what ties the contexts of the port that
`m` names to its mode. -/
structure BooksBut (d m : Option Port) (s : State) : Prop where
  table : TableOk s
  port : ∀ p, PortBooks (s.stands .opened p) (s.stands .reporting p) (d = some p) (m = some p) (s.port p)

theorem attached_iff (s : State) (p : Port) : s.attached p = true ↔ (s.port p).mode = .attached := beq_iff_eq

theorem BooksOk.but {s : State} (h : BooksOk s) : BooksBut none none s :=
  ⟨h.table, fun p => ⟨fun _ => h.deposit p, fun _ hd => (attached_iff s p).1 (h.depositMode p hd), h.backlog p,
    h.backlogOnce p, fun _ hb => (attached_iff s p).1 (h.backlogMode p hb), h.backlogFull p⟩⟩

theorem BooksBut.ok {s : State} (h : BooksBut none none s) : BooksOk s :=
  ⟨h.table, fun p => (h.port p).deposit nofun, fun p hd => (attached_iff s p).2 ((h.port p).depositMode nofun hd),
    fun p => (h.port p).backlog, fun p => (h.port p).backlogOnce,
    fun p hb => (attached_iff s p).2 ((h.port p).backlogMode nofun hb), fun p => (h.port p).backlogFull⟩

/-- What gives the books the same keeps them. -/
theorem BooksSame.keeps {s t : State} (h : BooksSame s t) {d m : Option Port} (hs : BooksBut d m s) :
    BooksBut d m t := by
  refine ⟨h.table hs.table, fun p => ?_⟩
  have hp := hs.port p
  have hmode : (t.port p).mode = .attached ↔ (s.port p).mode = .attached := by
    rw [← attached_iff, ← attached_iff, h.attached]
  constructor
  · intro hd id; rw [h.deposit, h.stands]; exact hp.deposit hd id
  · rw [h.deposit, hmode]; exact hp.depositMode
  · intro id; rw [h.backlog, h.stands]; exact hp.backlog id
  · rw [h.backlog]; exact hp.backlogOnce
  · rw [h.backlog, hmode]; exact hp.backlogMode
  · rw [h.backlog]; exact fun hb => (hp.backlogFull hb).trans (h.notices p)

section
variable {s : State} {d m : Option Port} {p : Port}

/-- A change of port `p` alone: its own books are all there is to show. -/
theorem BooksBut.modPort (h : BooksBut d m s) {d' m' : Option Port} {f : PortState → PortState}
    (hd : ∀ q, q ≠ p → d = some q → d' = some q) (hm : ∀ q, q ≠ p → m = some q → m' = some q)
    (hp : PortBooks (s.stands .opened p) (s.stands .reporting p) (d' = some p) (m' = some p) (f (s.port p))) :
    BooksBut d' m' (s.modPort p f) := by
  refine ⟨h.table, fun q => ?_⟩
  by_cases hq : q = p
  · subst hq; rw [State.port_modPort_self]; exact hp
  · rw [State.port_modPort_of_ne _ _ hq]
    have hb := h.port q
    exact ⟨fun hn => hb.deposit (hn ∘ hd q hq), fun hn => hb.depositMode (hn ∘ hm q hq), hb.backlog, hb.backlogOnce,
      fun hn => hb.backlogMode (hn ∘ hm q hq), hb.backlogFull⟩

/-- A change of records that no book but the deposit context of `p` sees. -/
theorem BooksBut.changeRecords (h : BooksBut d m s) {d' : Option Port} {t : State} (ht : TableOk t)
    (hports : ∀ q, t.port q = s.port q) (hd : ∀ q, d = some q → d' = some q)
    (hopn : ∀ q, d' ≠ some q → ∀ j, t.stands .opened q j ↔ s.stands .opened q j)
    (hrep : ∀ q j, t.stands .reporting q j ↔ s.stands .reporting q j) : BooksBut d' m t := by
  refine ⟨ht, fun q => ?_⟩
  have hb := h.port q
  rw [hports q]
  exact ⟨fun hn id => (hb.deposit (hn ∘ hd q) id).trans (hopn q hn id).symm, hb.depositMode,
    fun id => (hb.backlog id).trans (hrep q id).symm, hb.backlogOnce, hb.backlogMode, hb.backlogFull⟩

/-- The mode of a port changes: what ties its contexts to the mode stands open. -/
theorem BooksBut.changeMode (h : BooksBut d none s) {f : PortState → PortState}
    (hd : (f (s.port p)).deposit = (s.port p).deposit) (hb : (f (s.port p)).backlog = (s.port p).backlog)
    (hn : (f (s.port p)).notices = (s.port p).notices) : BooksBut d (some p) (s.modPort p f) := by
  have hp := h.port p
  refine h.modPort (fun _ _ hq => hq) (fun _ _ => nofun)
    ⟨?_, fun hm => absurd rfl hm, ?_, ?_, fun hm => absurd rfl hm, ?_⟩
  · rw [hd]; exact hp.deposit
  · rw [hb]; exact hp.backlog
  · rw [hb]; exact hp.backlogOnce
  · rw [hb, hn]; exact hp.backlogFull

/-- A port that is ATTACHED, or holds neither a deposit context nor a backlog, meets what the mode asks. -/
theorem BooksBut.closeMode (h : BooksBut d (some p) s)
    (hp : s.attached p = true ∨ (s.port p).deposit = .none ∧ (s.port p).backlog = []) : BooksBut d none s := by
  refine ⟨h.table, fun q => ?_⟩
  have hb := h.port q
  by_cases hq : q = p
  · subst hq
    rw [attached_iff] at hp
    exact { hb with
      depositMode := fun _ hne => hp.resolve_right fun hn => hne hn.1
      backlogMode := fun _ hne => hp.resolve_right fun hn => hne hn.2 }
  · have hm : ¬ some p = some q := fun he => hq (Option.some.inj he).symm
    exact { hb with depositMode := fun _ => hb.depositMode hm, backlogMode := fun _ => hb.backlogMode hm }

/-- The deposit context of a port takes a value, and is left out. -/
theorem BooksBut.setDeposit (h : BooksBut d m s) (hd : ∀ q, q ≠ p → d ≠ some q) {c : Deposit}
    (hm : m ≠ some p → c ≠ .none → (s.port p).mode = .attached) :
    BooksBut (some p) m (s.modPort p fun q => { q with deposit := c }) :=
  h.modPort (fun q hq he => absurd he (hd q hq)) (fun _ _ he => he)
    { h.port p with deposit := fun hn => absurd rfl hn, depositMode := hm }

/-- The deposit context that was left out takes the value that the table asks. -/
theorem BooksBut.settle (h : BooksBut (some p) m s) {c : Deposit} (hp : ∀ id, c = .opened id ↔ s.stands .opened p id)
    (hm : m ≠ some p → c ≠ .none → (s.port p).mode = .attached) :
    BooksBut none m (s.modPort p fun q => { q with deposit := c }) :=
  h.modPort (fun _ hq he => absurd (Option.some.inj he).symm hq) (fun _ _ he => he)
    { h.port p with deposit := fun _ => hp, depositMode := hm }

/-- The deposit context that was left out has the value that the table asks. -/
theorem BooksBut.closeDeposit (h : BooksBut (some p) m s)
    (hp : ∀ id, (s.port p).deposit = .opened id ↔ s.stands .opened p id) : BooksBut none m s := by
  refine ⟨h.table, fun q => { h.port q with deposit := fun _ => ?_ }⟩
  by_cases hq : q = p
  · subst hq; exact hp
  · exact (h.port q).deposit fun he => hq (Option.some.inj he).symm

/-- The notices of a port that has no backlog are not counted. -/
theorem BooksBut.clearNotices (h : BooksBut d m s) (hb : (s.port p).backlog = []) :
    BooksBut d m (s.modPort p fun q => { q with notices := [] }) :=
  h.modPort (fun _ _ he => he) (fun _ _ he => he) { h.port p with backlogFull := fun hn => absurd hb hn }

/-! ### Retire (R36, R97) -/

/-- A record that is neither OPEN nor REPORTING is in no book. -/
theorem BooksBut.freeRecord (h : BooksBut d m s) {id : Nat} {r : Record} (hr : s.record? id = some r)
    (hst : r.state ≠ .opened ∧ r.state ≠ .reporting) : BooksBut d m (s.freeRecord id) := by
  have hstands : ∀ st, r.state ≠ st → ∀ q j, (s.freeRecord id).stands st q j ↔ s.stands st q j := by
    intro st hs q j
    refine stands_freeRecord.trans (and_iff_right_of_imp ?_)
    rintro hj rfl
    exact hs ((stands_iff hr).1 hj).1
  exact h.changeRecords h.table.freeRecord (fun _ => rfl) (fun _ he => he) (fun q _ => hstands _ hst.1 q)
    (hstands _ hst.2)

/-- A record that was neither OPEN nor REPORTING joins the backlog of its ATTACHED source, which holds 28 notices or
more (R97). -/
theorem BooksBut.report (h : BooksBut d m s) {id : Nat} {r x : Record} (hr : s.record? id = some r)
    (hst : r.state ≠ .opened ∧ r.state ≠ .reporting) (hx : x.state = .reporting)
    (hatt : (s.port x.source).mode = .attached) (hfull : Config.noticeThreshold ≤ (s.port x.source).notices.length) :
    BooksBut d m ((s.putRecord id x).modPort x.source fun q => { q with backlog := q.backlog ++ [id] }) := by
  have hopn : ∀ q j, (s.putRecord id x).stands .opened q j ↔ s.stands .opened q j := fun q j =>
    stands_putRecord hr (fun hk => hst.1 hk.1) fun hk => nomatch hx.symm.trans hk.1
  have hnot : ∀ q, ¬ s.stands .reporting q id := fun q hq => hst.2 ((stands_iff hr).1 hq).1
  refine ⟨h.table.putRecord (h.table.lt hr), fun q => ?_⟩
  have hb := h.port q
  by_cases hq : q = x.source
  · subst hq
    rw [State.port_modPort_self]
    refine ⟨fun hd id => (hb.deposit hd id).trans (hopn _ id).symm, hb.depositMode, fun j => ?_, ?_, fun _ _ => hatt,
      fun _ => hfull⟩
    · show j ∈ (s.port x.source).backlog ++ [id] ↔ (s.putRecord id x).stands .reporting x.source j
      rw [List.mem_append, List.mem_singleton, hb.backlog j]
      by_cases hj : j = id
      · subst hj; simp [stands_putRecord_self, hx]
      · rw [stands_putRecord_of_ne hj, or_iff_left hj]
    · exact List.nodup_append.2 ⟨hb.backlogOnce, List.nodup_singleton id, fun a ha b hb' hab =>
        hnot _ ((hb.backlog id).1 (List.mem_singleton.1 hb' ▸ hab ▸ ha))⟩
  · rw [State.port_modPort_of_ne _ _ hq]
    refine { hb with deposit := fun hd id => (hb.deposit hd id).trans (hopn _ id).symm, backlog := fun j => ?_ }
    rw [State.putRecord_port, hb.backlog j]
    by_cases hj : j = id
    · subst hj
      exact iff_of_false (hnot q) fun hk => hq (stands_putRecord_self.1 hk).2.symm
    · exact (stands_putRecord_of_ne hj).symm

theorem Record.retires_state {r : Record} (h : r.retires = true) : r.state ≠ .opened ∧ r.state ≠ .reporting := by
  unfold Record.retires at h
  cases hs : r.state <;> simp [hs] at h ⊢

theorem BooksBut.retireOne (h : BooksBut d m s) (id : Nat) : BooksBut d m (s.retireOne id) := by
  rcases retireOne_cases s id with he | ⟨r, hr, hret, hcase⟩
  · rwa [he]
  · have hsame := booksSame_returnCells s r.source r.cls r.account r.cells
    have hr' := (returnCells_record? s r.source r.cls r.account r.cells id).trans hr
    rcases hcase with hq | ⟨hatt, hfull, he⟩
    · exact hq.books.keeps ((hsame.keeps h).freeRecord hr' (Record.retires_state hret))
    · rw [he]
      exact (hsame.keeps h).report hr' (Record.retires_state hret) rfl
        ((attached_iff _ _).1 ((hsame.attached _).trans hatt)) (hfull.trans (hsame.notices _))

theorem BooksBut.retireAll (h : BooksBut d m s) (ids : List Nat) : BooksBut d m (s.retireAll ids) := by
  unfold State.retireAll
  induction ids generalizing s with
  | nil => exact h
  | cons id ids ih => exact ih (h.retireOne id)

theorem BooksBut.retire (h : BooksBut d m s) (ids : List Nat) : BooksBut d m (s.retire ids) :=
  (quiet_waitCheckIfFreed _ _).books.keeps (h.retireAll ids)

/-! ### The OPEN record of a port -/

/-- Port `p` has no OPEN record. -/
def NoOpen (p : Port) (s : State) : Prop := ∀ id, ¬ s.stands .opened p id

theorem NoOpen.congr {t : State} (h : NoOpen p s) (hst : BooksSame s t) : NoOpen p t := fun id hid =>
  h id ((hst.stands _ _ _).1 hid)

/-- The deposit context names the only OPEN record of its port. -/
theorem BooksBut.only_opened (h : BooksBut none m s) {id : Nat} (hd : (s.port p).deposit = .opened id) (j : Nat)
    (hj : s.stands .opened p j) : j = id := by
  have hjd := ((h.port p).deposit nofun j).2 hj
  rw [hd] at hjd
  exact (Deposit.opened.inj hjd).symm

/-- The OPEN record of port `p` becomes SEALED or ABORTED: the deposit context of `p` stands open. -/
theorem BooksBut.endOpen (h : BooksBut d m s) (hd : ∀ q, q ≠ p → d ≠ some q) {id : Nat} {r : Record}
    (hst : s.stands .opened p id) (hr : r.state ≠ .opened ∧ r.state ≠ .reporting) :
    BooksBut (some p) m (s.putRecord id r) := by
  obtain ⟨x, hx, hxs, hxp⟩ := hst
  refine h.changeRecords (h.table.putRecord (h.table.lt hx)) (fun _ => rfl) (fun q hq => ?_) (fun q hq j => ?_)
    fun q j => ?_
  · by_cases hqp : q = p
    · rw [hqp]
    · exact absurd hq (hd q hqp)
  · exact stands_putRecord hx (fun hk => hq (congrArg some (hxp.symm.trans hk.2))) fun hk => hr.1 hk.1
  · exact stands_putRecord hx (fun hk => nomatch hxs.symm.trans hk.1) fun hk => hr.2 hk.1

/-- The one OPEN record of a port leaves the state OPEN. -/
theorem noOpen_putRecord {id : Nat} {r : Record} (h : ∀ j, s.stands .opened p j → j = id) (hr : r.state ≠ .opened) :
    NoOpen p (s.putRecord id r) := by
  intro j hj
  by_cases he : j = id
  · subst he; exact hr (stands_putRecord_self.1 hj).1
  · exact he (h j ((stands_putRecord_of_ne he).1 hj))

/-- A port without an OPEN record closes its deposit context with a value that names none. -/
theorem BooksBut.settleEnded (h : BooksBut (some p) m s) (hno : NoOpen p s) {c : Deposit} (hc : ∀ id, c ≠ .opened id)
    (hm : c = .none ∨ (s.port p).deposit ≠ .none) :
    BooksBut none m (s.modPort p fun q => { q with deposit := c }) :=
  h.settle (fun id => iff_of_false (hc id) (hno id)) fun hmp hne =>
    (h.port p).depositMode hmp (hm.resolve_left hne)

/-- The ABORTED record. -/
def Record.abortedBy (k : AbortCause) (r : Record) : Record :=
  { r with state := .aborted, abortCause := some k, remaining := none, expired := k == .expired }

/-- Abort, around the change of the record, is quiet. -/
theorem abort_eq (s : State) {id : Nat} (k : AbortCause) (hst : s.stands .opened p id) :
    ∃ u r, BooksSame s u ∧ Quiet (u.putRecord id (Record.abortedBy k r)) (s.abort id k) := by
  have hq := quiet_endDeliveries s id (abortFate k)
  obtain ⟨x, hx, -⟩ := hst
  obtain ⟨r, hr, -⟩ := hq.books.record' hx
  refine ⟨_, r, hq.books, ?_⟩
  unfold State.abort
  rw [State.modRecord_of_some _ _ _ hr]
  exact (quiet_wakeReaders _ _).trans (quiet_cutReaders _ _)

theorem BooksBut.abort (h : BooksBut d m s) (hd : ∀ q, q ≠ p → d ≠ some q) {id : Nat} (k : AbortCause)
    (hst : s.stands .opened p id) : BooksBut (some p) m (s.abort id k) := by
  obtain ⟨u, r, hu, hq⟩ := abort_eq s k hst
  exact hq.books.keeps ((hu.keeps h).endOpen hd ((hu.stands _ _ _).2 hst) ⟨nofun, nofun⟩)

theorem noOpen_abort {id : Nat} (k : AbortCause) (hst : s.stands .opened p id)
    (h : ∀ j, s.stands .opened p j → j = id) : NoOpen p (s.abort id k) := by
  obtain ⟨u, r, hu, hq⟩ := abort_eq s k hst
  exact (noOpen_putRecord (r := r.abortedBy k) (fun j hj => h j ((hu.stands _ _ _).1 hj)) nofun).congr hq.books

end

/-! ### CANCEL, SEAL and expiry (R61, R65, R112) -/

section
variable {s : State} {p : Port} {id : Nat}

/-- Abort of the record that a port is writing, and the close of its deposit context. -/
theorem BooksOk.abortDeposit (h : BooksOk s) (hd : (s.port p).deposit = .opened id) (k : AbortCause) {c : Deposit}
    (hc : ∀ id, c ≠ .opened id) : BooksOk ((s.abort id k).modPort p fun q => { q with deposit := c }) := by
  have hst := (h.deposit p id).1 hd
  have hkept : ((s.abort id k).port p).deposit ≠ .none := by
    rw [(within_abort s id k).deposit, hd]
    exact nofun
  exact ((h.but.abort (fun _ _ => nofun) k hst).settleEnded
    (noOpen_abort k hst fun j => h.but.only_opened hd j) hc (.inr hkept)).ok

theorem BooksOk.cancelRecord (h : BooksOk s) (hd : (s.port p).deposit = .opened id) : BooksOk (s.cancelRecord p id) :=
  ((h.abortDeposit hd .cancelled (c := .none) fun _ => nofun).but.retire _).ok

theorem booksSame_trim (s : State) (id : Nat) (r : Record) : BooksSame (s.putRecord id r.trimmed) (s.trim id r) :=
  (booksSame_returnCells _ _ _ _ _).trans (quiet_trim s id r).books

theorem BooksOk.sealRecord (h : BooksOk s) (r : Record) (hd : (s.port p).deposit = .opened id) :
    BooksOk (s.sealRecord p id r) := by
  have hst := (h.deposit p id).1 hd
  have hsame := (booksSame_trim s id r).trans (quiet_publish _ id).books
  have hbut := hsame.keeps (h.but.endOpen (r := r.trimmed) (fun _ _ => nofun) hst ⟨nofun, nofun⟩)
  have hno := (noOpen_putRecord (r := r.trimmed) (fun j => h.but.only_opened hd j) nofun).congr hsame
  have hset := hbut.settleEnded hno (c := .none) (fun _ => nofun) (.inl rfl)
  exact (((quiet_wakeReaders _ _).books.keeps hset).retire _).ok

theorem BooksOk.expire (h : BooksOk s) (id : Nat) : BooksOk (s.expire id) := by
  unfold State.expire
  split
  · exact h
  · rename_i r hr
    split
    · split
      · rename_i hst
        exact h.abortDeposit ((h.deposit r.source id).2 ⟨r, hr, hst, rfl⟩) .expired fun _ => nofun
      · exact ((quiet_expireSealed s id).books.keeps h.but).ok
    · exact h

theorem BooksOk.expireAll (ids : List Nat) (h : BooksOk s) : BooksOk (ids.foldl State.expire s) := by
  induction ids generalizing s with
  | nil => exact h
  | cons id ids ih => exact ih (h.expire id)

theorem BooksOk.expireMessages (h : BooksOk s) : BooksOk s.expireMessages := ((h.expireAll _).but.retire _).ok

/-! ### OPEN (R52) -/

theorem BooksOk.completeOpen (h : BooksOk s) (c : Cls) (a : OpenArgs) (members : PortSet) (account : Option Charge)
    (hatt : s.attached p = true) (hd : ∀ j, (s.port p).deposit ≠ .opened j) (hid : id < Config.recordCount)
    (hnone : s.record? id = none) : BooksOk (s.completeOpen p c a id members account) := by
  have hfree : ∀ st q, ¬ s.stands st q id := fun st q ⟨r, hr, _⟩ => nomatch hnone.symm.trans hr
  have hother : ∀ st q j, ¬ (RecState.opened = st ∧ p = q) →
      ((s.putRecord id (s.newRecord p c a members account)).stands st q j ↔ s.stands st q j) := by
    intro st q j hne
    by_cases hj : j = id
    · subst hj
      exact iff_of_false (hne ∘ stands_putRecord_self.1) (hfree st q)
    · exact stands_putRecord_of_ne hj
  have hput : BooksBut (some p) none (s.putRecord id (s.newRecord p c a members account)) :=
    h.but.changeRecords (h.table.putRecord hid) (fun _ => rfl) (fun _ => nofun)
      (fun q hq j => hother _ q j fun hk => hq (congrArg some hk.2)) fun q j => hother _ q j fun hk => nomatch hk.1
  have hsame := (quiet_claimed s p c a id members account).books.trans
    (booksSame_chargeCells _ p c account (cellsFor a.declared))
  refine ((quiet_completeOpen s p c a id members account).books.keeps ((hsame.keeps hput).settle (fun j => ?_)
    fun _ _ => (attached_iff _ _).1 ((hsame.attached p).trans hatt))).ok
  rw [hsame.stands]
  by_cases hj : j = id
  · subst hj
    exact iff_of_true rfl (stands_putRecord_self.2 ⟨rfl, rfl⟩)
  · rw [stands_putRecord_of_ne hj]
    exact iff_of_false (fun he => hj (Deposit.opened.inj he).symm) fun hx => hd j ((h.deposit p j).2 hx)

/-! ### NOTICE and the posting check (R101, R102) -/

/-- Where the books are in order, no receipt is due. -/
theorem BooksOk.postingCheck_eq (h : BooksOk s) (p : Port) : s.postingCheck p = s := by
  unfold State.postingCheck
  split
  · rfl
  · rename_i j rest hb
    have hfull := h.backlogFull p (by rw [hb]; exact List.cons_ne_nil _ _)
    rw [if_neg (not_lt.2 hfull)]

/-- The head notice leaves, and the receipt at the head of the backlog takes the room. -/
theorem BooksOk.postHead (h : BooksOk s) {rest : List Nat} (hb : (s.port p).backlog = id :: rest) (n : Notice) :
    BooksOk ((s.modPort p fun q => { q with notices := q.notices.tail ++ [n], backlog := rest }).freeRecord id) := by
  obtain ⟨r, hr, hst, hsrc⟩ := (h.backlog p id).1 (hb ▸ List.mem_cons_self)
  have hfull := h.backlogFull p (by rw [hb]; exact List.cons_ne_nil _ _)
  have hbp := h.but.port p
  have honce := hbp.backlogOnce
  rw [hb, List.nodup_cons] at honce
  have hopn : ∀ q j, (s.freeRecord id).stands .opened q j ↔ s.stands .opened q j := fun q j => by
    refine stands_freeRecord.trans (and_iff_right_of_imp ?_)
    rintro hj rfl
    exact nomatch hst.symm.trans ((stands_iff hr).1 hj).1
  refine BooksBut.ok ⟨TableOk.freeRecord (s := s.modPort p _) h.table, fun q => ?_⟩
  rw [State.freeRecord_port]
  by_cases hq : q = p
  · subst hq
    rw [State.port_modPort_self]
    refine ⟨fun _ j => (h.deposit q j).trans (hopn q j).symm, hbp.depositMode, fun j => ?_, honce.2,
      fun _ _ => hbp.backlogMode nofun (by rw [hb]; exact List.cons_ne_nil _ _), fun _ => ?_⟩
    · show j ∈ rest ↔ (s.freeRecord id).stands .reporting q j
      rw [stands_freeRecord, ← hbp.backlog j, hb, List.mem_cons]
      exact ⟨fun hj => ⟨fun he => honce.1 (he ▸ hj), .inr hj⟩, fun hj => hj.2.resolve_left hj.1⟩
    · simp only [List.length_append, List.length_tail, List.length_singleton]
      omega
  · rw [State.port_modPort_of_ne _ _ hq]
    refine { h.but.port q with deposit := fun _ j => (h.deposit q j).trans (hopn q j).symm, backlog := fun j => ?_ }
    show j ∈ (s.port q).backlog ↔ (s.freeRecord id).stands .reporting q j
    rw [stands_freeRecord, ← (h.but.port q).backlog j]
    refine (and_iff_right_of_imp ?_).symm
    rintro hj rfl
    exact hq (((stands_iff hr).1 ((h.backlog q j).1 hj)).2.symm.trans hsrc)

theorem freeRecord_modPort (s : State) (id : Nat) (p : Port) (f : PortState → PortState) :
    (s.freeRecord id).modPort p f = (s.modPort p f).freeRecord id := rfl

/-- What NOTICE can do: the head notice leaves, and the receipt at the head of the backlog is posted, or none is due. -/
theorem removeNotice_cases (s : State) (p : Port) :
    s.removeNotice p = s.modPort p (fun q => { q with notices := q.notices.tail }) ∧
        ((s.port p).backlog = [] ∨ Config.noticeThreshold ≤ (s.port p).notices.tail.length ∨
          ∃ id rest, (s.port p).backlog = id :: rest ∧ s.record? id = none) ∨
      ∃ id rest n, (s.port p).backlog = id :: rest ∧
        Quiet ((s.modPort p fun q => { q with notices := q.notices.tail ++ [n], backlog := rest }).freeRecord id)
          (s.removeNotice p) := by
  unfold State.removeNotice State.postingCheck
  rw [State.port_modPort_self]
  dsimp only
  split
  · rename_i hb; exact .inl ⟨rfl, .inl hb⟩
  · rename_i id rest hb
    split
    · split
      · rename_i hr; exact .inl ⟨rfl, .inr (.inr ⟨id, rest, hb, hr⟩)⟩
      · rename_i r hr
        refine .inr ⟨id, rest, .receipt (r.receiptOf id), hb, ?_⟩
        unfold State.postReceipt State.appendNotice
        rw [State.modPort_modPort, freeRecord_modPort, State.modPort_modPort]
        exact quiet_raise _ p .notice
    · rename_i hn; exact .inl ⟨rfl, .inr (.inl (not_lt.1 hn))⟩

theorem BooksOk.removeNotice (h : BooksOk s) (p : Port) : BooksOk (s.removeNotice p) := by
  rcases removeNotice_cases s p with ⟨he, hcase⟩ | ⟨id, rest, n, hb, hq⟩
  · rw [he]
    refine (h.but.modPort (fun _ _ hq => hq) (fun _ _ hq => hq) { h.but.port p with backlogFull := fun hne => ?_ }).ok
    rcases hcase with hnil | hfull | ⟨id, rest, hb, hnone⟩
    · exact absurd hnil hne
    · exact hfull
    · obtain ⟨r, hr, -⟩ := (h.backlog p id).1 (hb ▸ List.mem_cons_self)
      exact nomatch hnone.symm.trans hr
  · exact (hq.books.keeps (h.postHead hb n).but).ok

/-- A REPORTING record holds no cell, so what NOTICE frees is a record without cells. -/
theorem PoolOk.removeNotice (h : PoolOk s) (hb : BooksOk s) (p : Port) : PoolOk (s.removeNotice p) := by
  rcases removeNotice_cases s p with ⟨he, -⟩ | ⟨id, rest, n, hbl, hq⟩
  · rw [he]
    exact PoolSame.keeps (poolSame_modPort rfl) h
  · obtain ⟨x, hx, hst, -⟩ := (hb.backlog p id).1 (hbl ▸ List.mem_cons_self)
    refine hq.pool.keeps ((PoolSame.keeps (poolSame_modPort rfl) h).freeRecord fun r hr => ?_)
    exact h.reporting (id, r) (h.table.mem_iff.2 hr) (by rw [State.modPort_record?, hx] at hr; cases hr; exact hst)

theorem removeNotice_sizes (s : State) (p : Port) : SameSizes s (s.removeNotice p) := by
  rcases removeNotice_cases s p with ⟨he, -⟩ | ⟨id, rest, n, -, hq⟩
  · rw [he]
    exact (poolSame_modPort rfl).sizes
  · refine SameSizes.trans (fun q c => ?_) hq.pool.sizes
    rw [State.freeRecord_port]
    exact (poolSame_modPort (s := s) (p := p) rfl).sizes q c

end

end Sys2Proof.Machine
end

section
/-! SUPPORT. The pool and the books over the life cycle of a port (R129, R132) and over a tick (R108, R119). -/

namespace Sys2Proof.Machine

open Sys2Proof

/-! ### The backlog of a port that leaves (R105) -/

theorem foldl_freeRecord_record? (l : List Nat) (s : State) (j : Nat) :
    (l.foldl State.freeRecord s).record? j = if j ∈ l then none else s.record? j := by
  induction l generalizing s with
  | nil => simp
  | cons a l ih =>
    rw [List.foldl_cons, ih]
    by_cases hj : j = a
    · subst hj; simp
    · simp [State.freeRecord_record?_of_ne _ _ hj, hj]

theorem foldl_freeRecord_port (l : List Nat) (s : State) (q : Port) :
    (l.foldl State.freeRecord s).port q = s.port q := by
  induction l generalizing s with
  | nil => rfl
  | cons a l ih => exact ih _

theorem TableOk.foldl_freeRecord (l : List Nat) {s : State} (h : TableOk s) :
    TableOk (l.foldl State.freeRecord s) := by
  induction l generalizing s with
  | nil => exact h
  | cons a l ih => exact ih h.freeRecord

theorem stands_foldl_freeRecord (l : List Nat) (s : State) (st : RecState) (q : Port) (j : Nat) :
    (l.foldl State.freeRecord s).stands st q j ↔ j ∉ l ∧ s.stands st q j := by
  unfold State.stands
  rw [foldl_freeRecord_record?]
  by_cases hj : j ∈ l <;> simp [hj]

theorem PoolOk.foldl_freeRecord (l : List Nat) {s : State} (h : PoolOk s)
    (hl : ∀ id ∈ l, ∀ r, s.record? id = some r → r.cells = []) : PoolOk (l.foldl State.freeRecord s) := by
  induction l generalizing s with
  | nil => exact h
  | cons a l ih =>
    refine ih (h.freeRecord (hl a List.mem_cons_self)) fun id hid r hr => ?_
    by_cases hia : id = a
    · subst hia; rw [State.freeRecord_record?_self] at hr; cases hr
    · rw [State.freeRecord_record?_of_ne _ _ hia] at hr
      exact hl id (List.mem_cons_of_mem _ hid) r hr

section
variable {s : State} {p : Port}

theorem discardBacklog_sizes (s : State) (p : Port) : SameSizes s (s.discardBacklog p) := by
  have hfold : SameSizes s ((s.port p).backlog.foldl State.freeRecord s) := fun q c => by rw [foldl_freeRecord_port]
  exact hfold.trans (poolSame_modPort rfl).sizes

theorem discardBacklog_returned (s : State) (p : Port) : Returned s (s.discardBacklog p) := by
  intro id
  rw [cellsOf_eq, cellsOf_eq]
  unfold State.discardBacklog
  rw [State.modPort_record?, foldl_freeRecord_record?]
  split
  · exact .inr rfl
  · exact .inl rfl

/-- The backlog holds REPORTING records, which hold no cell. -/
theorem PoolOk.discardBacklog (h : PoolOk s) {d m : Option Port} (hb : BooksBut d m s) :
    PoolOk (s.discardBacklog p) := by
  refine PoolSame.keeps (poolSame_modPort rfl) (h.foldl_freeRecord _ fun id hid r hr => ?_)
  obtain ⟨x, hx, hst, -⟩ := ((hb.port p).backlog id).1 hid
  rw [hr] at hx
  cases hx
  exact h.reporting (id, r) (h.table.mem_iff.2 hr) hst

/-- A port that has left holds neither a deposit context nor a backlog, so its books close. -/
theorem BooksBut.discardBacklog (h : BooksBut none (some p) s) (hd : (s.port p).deposit = .none) :
    BooksOk (s.discardBacklog p) := by
  have hopn : ∀ q j, ((s.port p).backlog.foldl State.freeRecord s).stands .opened q j ↔ s.stands .opened q j := by
    intro q j
    refine (stands_foldl_freeRecord _ s _ q j).trans (and_iff_right_of_imp fun ⟨r, hr, hst, _⟩ hj => ?_)
    obtain ⟨x, hx, hxs, -⟩ := ((h.port p).backlog j).1 hj
    rw [hr] at hx
    cases hx
    exact nomatch hst.symm.trans hxs
  refine BooksBut.ok ⟨h.table.foldl_freeRecord _, fun q => ?_⟩
  have hb := h.port q
  unfold State.discardBacklog
  by_cases hq : q = p
  · subst hq
    rw [State.port_modPort_self, foldl_freeRecord_port]
    refine ⟨fun _ j => (hb.deposit nofun j).trans (hopn q j).symm, fun _ hne => absurd hd hne, fun j => ?_,
      List.nodup_nil, fun _ hne => absurd rfl hne, fun hne => absurd rfl hne⟩
    refine iff_of_false List.not_mem_nil fun hj => ?_
    obtain ⟨hnot, hst⟩ := (stands_foldl_freeRecord _ s _ q j).1 hj
    exact hnot ((hb.backlog j).2 hst)
  · have hm : ¬ some p = some q := fun he => hq (Option.some.inj he).symm
    rw [State.port_modPort_of_ne _ _ hq, foldl_freeRecord_port]
    refine ⟨fun _ j => (hb.deposit nofun j).trans (hopn q j).symm, fun _ => hb.depositMode hm, fun j => ?_,
      hb.backlogOnce, fun _ => hb.backlogMode hm, hb.backlogFull⟩
    refine (hb.backlog j).trans ((stands_foldl_freeRecord _ s _ q j).trans (and_iff_right_of_imp fun hst hj => ?_)).symm
    obtain ⟨x, hx, -, hxp⟩ := ((h.port p).backlog j).1 hj
    exact hq (((stands_iff hx).1 hst).2.symm.trans hxp)

/-! ### Teardown start (R129) -/

theorem loseDeposit_poolSame (s : State) (p : Port) : PoolSame s (s.loseDeposit p) := by
  have h : PoolSame s (s.modPort p fun q => { q with deposit := .none }) := poolSame_modPort rfl
  unfold State.loseDeposit
  dsimp only
  split
  · exact h.trans (abort_poolSame _ _ _)
  · exact h

theorem loseDeposit_deposit (s : State) (p : Port) : ((s.loseDeposit p).port p).deposit = .none := by
  unfold State.loseDeposit
  dsimp only
  split
  · rw [(within_abort _ _ _).deposit, State.port_modPort_self]
  · rw [State.port_modPort_self]

theorem BooksBut.loseDeposit (h : BooksBut none (some p) s) : BooksBut none (some p) (s.loseDeposit p) := by
  have hset : BooksBut (some p) (some p) (s.modPort p fun q => { q with deposit := .none }) :=
    h.setDeposit (fun _ _ => nofun) fun hm => absurd rfl hm
  have hclose : ∀ t, BooksBut (some p) (some p) t → (t.port p).deposit = .none → NoOpen p t →
      BooksBut none (some p) t := fun t ht hd hno =>
    ht.closeDeposit fun id => iff_of_false (by rw [hd]; exact nofun) (hno id)
  have hnone := loseDeposit_deposit s p
  unfold State.loseDeposit at hnone ⊢
  dsimp only at hnone ⊢
  split at hnone
  · rename_i id hd
    have hst : s.stands .opened p id := ((h.port p).deposit nofun id).1 hd
    exact hclose _ (hset.abort (fun q hq he => hq (Option.some.inj he).symm) .sourceLost hst) hnone
      (noOpen_abort .sourceLost hst fun j hj => h.only_opened hd j hj)
  · rename_i hd
    exact hclose _ hset hnone fun id hid => hd id (((h.port p).deposit nofun id).2 hid)

/-- Steps 1 to 8 of teardown start: the port has left, but for its backlog and the slot. -/
def State.departing (s : State) (p : Port) (cause : TeardownCause) : State :=
  let s6 := (((s.modPort p fun q => q.startTeardown cause).loseDeposit p).dropReceipts p).loseFetch p
  ((s6.retireAll (s.port p).heldIds).modPort p fun q => { q with wait := none }).waitCheckIfFreed s6

theorem teardownStart_eq (s : State) (p : Port) (cause : TeardownCause) :
    s.teardownStart p cause = ((s.departing p cause).discardBacklog p).leaveProposal p := rfl

theorem departing_kept (s : State) (p : Port) (cause : TeardownCause) : PoolKept s (s.departing p cause) := by
  refine .trans ?_ (quiet_waitCheckIfFreed _ _).kept
  refine .trans ?_ (quiet_modPort ⟨rfl, rfl, le_rfl⟩).kept
  refine .trans ?_ (retireAll_kept _ _)
  refine .trans ?_ (quiet_loseFetch _ p).kept
  refine .trans ?_ (quiet_dropReceipts _ p).kept
  refine .trans ?_ (loseDeposit_poolSame _ p).kept
  exact (poolSame_modPort rfl).kept

theorem BooksOk.departing (h : BooksOk s) (cause : TeardownCause) :
    BooksBut none (some p) (s.departing p cause) ∧ ((s.departing p cause).port p).deposit = .none := by
  have hquiet := (quiet_dropReceipts ((s.modPort p fun q => q.startTeardown cause).loseDeposit p) p).trans
    (quiet_loseFetch _ p)
  have hbooks := hquiet.books.keeps
    (h.but.changeMode (f := fun q => q.startTeardown cause) rfl rfl rfl).loseDeposit
  have hdep := hquiet.books.deposit p
  rw [loseDeposit_deposit] at hdep
  have hlast : ∀ t u, Quiet t ((t.modPort p fun q => { q with wait := none }).waitCheckIfFreed u) := fun t u =>
    (quiet_modPort ⟨rfl, rfl, le_rfl⟩).trans (quiet_waitCheckIfFreed _ u)
  refine ⟨(hlast _ _).books.keeps (hbooks.retireAll _), ?_⟩
  exact ((hlast _ _).books.deposit p).trans (((within_retireAll _ _).deposit p).trans hdep)

theorem teardownStart_sizes (s : State) (p : Port) (cause : TeardownCause) :
    SameSizes s (s.teardownStart p cause) := by
  rw [teardownStart_eq]
  exact ((departing_kept s p cause).sizes.trans (discardBacklog_sizes _ p)).trans (quiet_leaveProposal _ p).pool.sizes

theorem teardownStart_returned (s : State) (p : Port) (cause : TeardownCause) :
    Returned s (s.teardownStart p cause) := by
  rw [teardownStart_eq]
  exact ((departing_kept s p cause).returned.trans (discardBacklog_returned _ p)).trans
    (quiet_leaveProposal _ p).pool.returned

theorem teardownStart_keeps (hs : PoolOk s) (hb : BooksOk s) (cause : TeardownCause) :
    PoolOk (s.teardownStart p cause) ∧ BooksOk (s.teardownStart p cause) := by
  obtain ⟨hbut, hd⟩ := hb.departing (p := p) cause
  have hlast := quiet_leaveProposal ((s.departing p cause).discardBacklog p) p
  rw [teardownStart_eq]
  exact ⟨hlast.pool.keeps (((departing_kept s p cause).pool hs).discardBacklog hbut),
    (hlast.books.keeps (hbut.discardBacklog hd).but).ok⟩

/-! ### Teardown completion (R132) -/

/-- Steps 1 and 2 of teardown completion: the waiting deliveries have ended, and their records are retired. -/
def State.purged (s : State) (p : Port) : State :=
  (s.purgeDeliveries p).retireAll (s.recordIds fun r => r.deliveries.any (Entry.waitsFor p))

/-- Steps 1 to 5: the notices are gone, and the reserves are dissolved. -/
def State.dissolving (s : State) (p : Port) : State :=
  (((s.purged p).modPort p fun q => { q with notices := [] }).dissolve p).waitCheck

theorem teardownComplete_eq (s : State) (p : Port) :
    s.teardownComplete p = ((s.dissolving p).modPort p PortState.completeTeardown).offerPeers p false := rfl

theorem purged_kept (s : State) (p : Port) : PoolKept s (s.purged p) :=
  (quiet_purgeDeliveries s p).kept.trans (retireAll_kept _ _)

theorem within_purged (s : State) (p : Port) : Within s (s.purged p) :=
  (within_purgeDeliveries s p).trans (within_retireAll _ _)

theorem BooksBut.purged {d m : Option Port} (h : BooksBut d m s) : BooksBut d m (s.purged p) :=
  ((quiet_purgeDeliveries s p).books.keeps h).retireAll _

theorem teardownComplete_poolSame (s : State) (p : Port) : PoolSame (s.dissolving p) (s.teardownComplete p) := by
  rw [teardownComplete_eq]
  exact (poolSame_modPort rfl).trans (quiet_offerPeers _ p false).pool

/-- The reserves of another port keep their sizes. -/
theorem teardownComplete_size_of_ne (s : State) {p q : Port} (h : q ≠ p) (c : Cls) :
    (((s.teardownComplete p).port q).reserve c).size = ((s.port q).reserve c).size := by
  rw [(teardownComplete_poolSame s p).sizes, State.dissolving, (quiet_waitCheck _).pool.sizes, dissolve_reserve,
    if_neg h, State.port_modPort_of_ne _ _ h, (purged_kept s p).sizes]

theorem PoolOk.teardownComplete (h : PoolOk s) (p : Port) : PoolOk (s.teardownComplete p) := by
  have hcleared : PoolSame (s.purged p) ((s.purged p).modPort p fun q => { q with notices := [] }) :=
    poolSame_modPort rfl
  have hdissolved := (hcleared.keeps ((purged_kept s p).pool h)).dissolve p
  exact (teardownComplete_poolSame s p).keeps ((quiet_waitCheck _).pool.keeps hdissolved)

/-- A port that is not ATTACHED holds neither a deposit context nor a backlog. -/
theorem BooksOk.departed (h : BooksOk s) (hp : s.attached p = false) :
    (s.port p).deposit = .none ∧ (s.port p).backlog = [] := by
  constructor
  · by_contra hne; simp [h.depositMode p hne] at hp
  · by_contra hne; simp [h.backlogMode p hne] at hp

theorem BooksOk.teardownComplete (h : BooksOk s) (hp : s.attached p = false) : BooksOk (s.teardownComplete p) := by
  have hpurged : BooksBut none none (s.purged p) := h.but.purged
  have hatt : (s.purged p).attached p = false := ((within_purged s p).attached p).trans hp
  have hclear := hpurged.clearNotices (hpurged.ok.departed hatt).2
  have hattclear : ((s.purged p).modPort p fun q => { q with notices := [] }).attached p = false := by
    refine (State.attached_modPort _ _ _ _ ?_).trans hatt
    exact fun _ => rfl
  have hsame := (booksSame_dissolve ((s.purged p).modPort p fun q => { q with notices := [] }) p).trans
    (quiet_waitCheck _).books
  have hdis : BooksOk (s.dissolving p) := (hsame.keeps hclear).ok
  have hgone : (s.dissolving p).attached p = false := (hsame.attached p).trans hattclear
  obtain ⟨hd, hb⟩ := hdis.departed hgone
  have hdone : BooksSame (s.dissolving p) ((s.dissolving p).modPort p PortState.completeTeardown) :=
    booksSame_modPort (Prod.ext hgone.symm (Prod.ext hd.symm hb.symm)) rfl
  rw [teardownComplete_eq]
  exact ((quiet_offerPeers _ p false).books.keeps (hdone.keeps hdis.but)).ok

/-! ### Chip reset and the tick -/

theorem BooksOk.chipReset (s : State) : BooksOk s.chipReset := by
  have hport : ∀ q, (s.chipReset).port q = (s.port q).chipReset := fun q => PerPort.get_map _ _ _
  refine BooksBut.ok ⟨⟨List.Pairwise.nil, fun _ he => nomatch he⟩, fun q => ?_⟩
  rw [hport]
  have hnone : ∀ st id, ¬ (s.chipReset).stands st q id := fun _ _ hst => nomatch hst.choose_spec.1
  exact
    { deposit := fun _ id => iff_of_false nofun (hnone _ id)
      depositMode := fun _ hne => absurd rfl hne
      backlog := fun id => iff_of_false List.not_mem_nil (hnone _ id)
      backlogOnce := List.nodup_nil
      backlogMode := fun _ hne => absurd rfl hne
      backlogFull := fun hne => absurd rfl hne }

/-- What a tick takes at one owner keeps both bodies of laws. -/
theorem tickTask_keeps (k : TickTask) (hs : PoolOk s) (hb : BooksOk s) :
    PoolOk (s.tickTask k) ∧ BooksOk (s.tickTask k) := by
  cases k with
  | messages => exact ⟨(expireMessages_kept s).pool hs, hb.expireMessages⟩
  | lease p =>
    unfold State.tickTask State.expireLease
    dsimp only
    split
    · exact teardownStart_keeps hs hb .lease
    · exact ⟨hs, hb⟩
  | proposal => exact ⟨(quiet_timeOut s).pool.keeps hs, ((quiet_timeOut s).books.keeps hb.but).ok⟩

theorem tickTask_moves (s : State) (k : TickTask) : SameSizes s (s.tickTask k) ∧ Returned s (s.tickTask k) := by
  cases k with
  | messages => exact ⟨(expireMessages_kept s).sizes, (expireMessages_kept s).returned⟩
  | lease p =>
    unfold State.tickTask State.expireLease
    dsimp only
    split
    · exact ⟨teardownStart_sizes s p .lease, teardownStart_returned s p .lease⟩
    · exact ⟨.refl s, (PoolSame.refl s).returned⟩
  | proposal => exact ⟨(quiet_timeOut s).pool.sizes, (quiet_timeOut s).pool.returned⟩

theorem tickTasks_keeps (l : List TickTask) (hs : PoolOk s) (hb : BooksOk s) :
    PoolOk (l.foldl State.tickTask s) ∧ BooksOk (l.foldl State.tickTask s) := by
  induction l generalizing s with
  | nil => exact ⟨hs, hb⟩
  | cons k l ih => exact ih (tickTask_keeps k hs hb).1 (tickTask_keeps k hs hb).2

theorem tickTasks_moves (l : List TickTask) (s : State) :
    SameSizes s (l.foldl State.tickTask s) ∧ Returned s (l.foldl State.tickTask s) := by
  induction l generalizing s with
  | nil => exact ⟨.refl s, (PoolSame.refl s).returned⟩
  | cons k l ih =>
    obtain ⟨hsize, hret⟩ := tickTask_moves s k
    exact ⟨hsize.trans (ih _).1, hret.trans (ih _).2⟩

/-- The order of the free list is in no book. -/
theorem booksSame_returnedInOrder (s t : State) : BooksSame t (s.returnedInOrder t) :=
  booksSame_of_ports rfl (fun _ => rfl) fun _ => le_rfl

end

end Sys2Proof.Machine
end

section
/-! SUPPORT. Every row of the table keeps the laws of the pool together with the books, and the reserve sizes but where
a RESERVE, a teardown completion or chip reset changes them; and the obligation KeepsPoolBalance from it. -/

namespace Sys2Proof.Machine

open Sys2Proof

/-- What every row does to the pool and the books: both bodies of laws are kept together, and the reserve sizes of the
ports outside `X` stand. -/
structure Lawful (X : Port → Prop) (s t : State) : Prop where
  sizes : ∀ q, ¬ X q → ∀ c, ((t.port q).reserve c).size = ((s.port q).reserve c).size
  keeps : PoolOk s → BooksOk s → PoolOk t ∧ BooksOk t

section
variable {X : Port → Prop} {s t u : State} {p : Port}

theorem Lawful.refl (s : State) : Lawful X s s := ⟨fun _ _ _ => rfl, fun hs hb => ⟨hs, hb⟩⟩

theorem Lawful.trans (h : Lawful X s t) (k : Lawful X t u) : Lawful X s u :=
  ⟨fun q hq c => (k.sizes q hq c).trans (h.sizes q hq c), fun hs hb => k.keeps (h.keeps hs hb).1 (h.keeps hs hb).2⟩

theorem Lawful.mono {Y : Port → Prop} (h : Lawful X s t) (hXY : ∀ q, X q → Y q) : Lawful Y s t :=
  ⟨fun q hq => h.sizes q fun hx => hq (hXY q hx), h.keeps⟩

/-- An act that leaves every reserve size. -/
theorem Lawful.of_sizes (h : SameSizes s t) (hk : PoolOk s → BooksOk s → PoolOk t ∧ BooksOk t) : Lawful X s t :=
  ⟨fun q _ => h q, hk⟩

/-- An act that keeps the laws of the pool by itself, and the books by themselves. -/
theorem Lawful.of_kept (h : PoolKept s t) (hb : BooksOk s → BooksOk t) : Lawful X s t :=
  .of_sizes h.sizes fun hs hbooks => ⟨h.pool hs, hb hbooks⟩

theorem Quiet.lawful (h : Quiet s t) : Lawful X s t := .of_kept h.kept fun hb => (h.books.keeps hb.but).ok

/-- A change of one port that neither the pool nor the books see. -/
theorem lawful_modPort {f : PortState → PortState} (h : (s.port p).Stays (f (s.port p))) :
    Lawful X s (s.modPort p f) := (quiet_modPort h).lawful

theorem retire_lawful (s : State) (ids : List Nat) : Lawful X s (s.retire ids) :=
  .of_kept (retire_kept s ids) fun hb => (hb.but.retire ids).ok

/-! ### The framing of a transaction -/

/-- Every state that a taken command can leave is lawful. -/
def Taking (X : Port → Prop) (s : State) (e : Except Fault Taken) : Prop := ∀ k, e = .ok k → Lawful X s k.state

theorem Taking.ok (h : Lawful X s t) (r : List Byte) (n : Nat) : Taking X s (.ok ⟨t, r, n⟩) := by
  intro k hk
  cases hk
  exact h

theorem Taking.reply (h : Lawful X s t) (r : List Byte) : Taking X s (replyWith t r) := .ok h r 0

/-- A refused command leaves the state. -/
theorem Taking.refused (r : List Byte) : Taking X s (replyWith s r) := .reply (.refl s) r

theorem Taking.error (f : Fault) : Taking X s (.error f) := fun _ hk => nomatch hk

theorem Taking.gated {r : List Byte} {e : Except Fault Taken} (h : s.attached p = true → Taking X s e) :
    Taking X s (whenAttached s p r e) := by
  unfold whenAttached
  split
  · exact h ‹_›
  · exact .refused r

theorem Taking.finish {out : Byte} {e : Except Fault Taken} (h : Taking X s e) (he : finishTake p out e = .next t) :
    Lawful X s t := by
  cases e with
  | error f => cases he
  | ok k =>
    cases he
    exact (h k rfl).trans (lawful_modPort ⟨rfl, rfl, le_rfl⟩)

theorem onByte_lawful {k : Phase → StepOutcome} (he : onByte s p k = .next t)
    (h : ∀ ph, k ph = .next t → Lawful X s t) : Lawful X s t := by
  unfold onByte at he
  split at he
  · cases he; exact .refl s
  · cases he; exact .refl s
  · cases he; exact .refl s
  · exact h _ he

theorem onRow_lawful {b : Byte} {row : Instr} {k : StepOutcome} (he : onRow s p b row k = .next t)
    (h : k = .next t → Lawful X s t) : Lawful X s t := by
  rcases onRow_next he with ⟨-, rfl⟩ | ⟨-, -, hk⟩
  · exact .refl _
  · exact h hk

theorem takeCommandByte_lawful {code : Byte} {row : Instr} {f : State → Except Fault Taken}
    (he : takeCommandByte s p code row f = .next t) (h : Taking X s (f s)) : Lawful X s t :=
  onRow_lawful he h.finish

theorem takeCommand_lawful {b : Byte} {row : Instr} {f : List Byte → State → Except Fault Taken}
    (he : takeCommand s p b row f = .next t) (h : ∀ args, Taking X s (f args s)) : Lawful X s t :=
  onRow_lawful he (h _).finish

/-! ### Commands on the port itself -/

theorem execStatus_lawful (he : execStatus p s = .next t) : Lawful X s t := takeCommandByte_lawful he (.refused _)

/-- A port that attaches meets what the books ask of its mode. -/
theorem attach_lawful (s : State) (p : Port) :
    Lawful X s (s.modPort p fun q => { q with mode := .attached, leaseCounter := q.leasePeriod }) :=
  .of_kept (poolSame_modPort rfl).kept fun hb =>
    ((hb.but.changeMode rfl rfl rfl).closeMode (.inl (by simp [State.attached]))).ok

theorem execAttach_lawful (he : execAttach p s = .next t) : Lawful X s t := by
  refine takeCommandByte_lawful he ?_
  split
  · exact .reply ((attach_lawful s p).trans (quiet_offerPeers _ p true).lawful) _
  · exact .refused _

theorem teardownStart_lawful (s : State) (p : Port) (cause : TeardownCause) :
    Lawful X s (s.teardownStart p cause) :=
  .of_sizes (teardownStart_sizes s p cause) fun hs hb => teardownStart_keeps hs hb cause

theorem execDetach_lawful (he : execDetach p s = .next t) : Lawful X s t :=
  takeCommandByte_lawful he (.gated fun _ => .reply (teardownStart_lawful s p _) _)

theorem execSetport_lawful {b : Byte} (he : execSetport p b s = .next t) : Lawful X s t := by
  refine takeCommand_lawful he fun _ => .gated fun _ => ?_
  dsimp only
  split
  · exact .reply (lawful_modPort ⟨rfl, rfl, le_rfl⟩) _
  · exact .refused _

theorem execClear_lawful {b : Byte} (he : execClear p b s = .next t) : Lawful X s t := by
  refine takeCommand_lawful he fun _ => .gated fun _ => ?_
  dsimp only
  split
  · exact .reply (lawful_modPort ⟨rfl, rfl, le_rfl⟩) _
  · exact .refused _

theorem booksSame_resizeReserve (s : State) (p : Port) (c : Cls) (r : Nat) : BooksSame s (s.resizeReserve p c r) := by
  refine .trans (t := s.granted p c r) ?_ (quiet_resizeReserve s p c r).books
  exact booksSame_modPort (PortState.setReserve_booked _ _ _) (PortState.setReserve_notices _ _ _)

theorem resizeReserve_lawful (s : State) (p : Port) (c : Cls) (r : Nat) :
    Lawful (· = p) s (s.resizeReserve p c r) :=
  ⟨fun _ hq k => resizeReserve_size_of_ne s c k r hq, fun hs hb =>
    ⟨hs.resizeReserve p c r, ((booksSame_resizeReserve s p c r).keeps hb.but).ok⟩⟩

theorem execReserve_lawful {b : Byte} (he : execReserve p b s = .next t) : Lawful (· = p) s t := by
  refine takeCommand_lawful he fun _ => .gated fun _ => ?_
  split
  · exact .refused _
  · dsimp only
    split
    · exact .reply (resizeReserve_lawful s p _ _) _
    · exact .refused _

/-! ### Depositing a message -/

theorem lowestFree_spec {id : Nat} (h : s.lowestFree = some id) : id < Config.recordCount ∧ s.record? id = none := by
  have hmem := List.mem_of_find?_eq_some h
  have hfree := List.find?_some h
  exact ⟨List.mem_range.1 hmem, Option.isNone_iff_eq_none.1 hfree⟩

theorem completeOpen_lawful {c : Cls} {a : OpenArgs} {id : Nat} {members : PortSet} {account : Option Charge}
    (hatt : s.attached p = true) (hd : (s.port p).deposit.isOpened ≠ true) (hid : s.lowestFree = some id)
    (hc : s.chargeFor p c (cellsFor a.declared) = some account) :
    Lawful X s (s.completeOpen p c a id members account) := by
  obtain ⟨hlt, hnone⟩ := lowestFree_spec hid
  have hnot : ∀ j, (s.port p).deposit ≠ .opened j := fun j hj => hd (by rw [hj]; rfl)
  exact .of_sizes (completeOpen_sizes _ _ _ _ _ _ _) fun hs hb =>
    ⟨hs.completeOpen hlt hnone hc, hb.completeOpen c a members account hatt hnot hlt hnone⟩

theorem takeOpen_taking (a : OpenArgs) (hatt : s.attached p = true) : Taking X s (s.takeOpen p a) := by
  unfold State.takeOpen
  split
  · exact .refused _
  · rename_i hd
    split
    · exact .refused _
    · split
      · exact .refused _
      · split
        · exact .refused _
        · split
          · exact .refused _
          · rename_i id hid
            dsimp only
            split
            · exact .refused _
            · split
              · refine .reply ?_ _
                split
                · exact lawful_modPort ⟨rfl, rfl, le_rfl⟩
                · exact .refl s
              · rename_i account hc
                exact .reply (completeOpen_lawful hatt hd hid hc) _

theorem execOpen_lawful {b : Byte} (he : execOpen p b s = .next t) : Lawful X s t :=
  takeCommand_lawful he fun _ => .gated (takeOpen_taking _)

/-- A deposit context that names no OPEN record is closed. -/
theorem endLapse_lawful {f : PortState → PortState} (hd : ∀ id, (s.port p).deposit ≠ .opened id)
    (hf : (f (s.port p)).deposit = .none) (hacc : (f (s.port p)).accounts = (s.port p).accounts)
    (hmode : (f (s.port p)).mode = (s.port p).mode) (hback : (f (s.port p)).backlog = (s.port p).backlog)
    (hnot : (f (s.port p)).notices = (s.port p).notices) : Lawful X s (s.modPort p f) := by
  refine .of_kept (poolSame_modPort hacc).kept fun hb => ?_
  have hp := hb.but.port p
  refine (hb.but.modPort (fun _ _ hq => hq) (fun _ _ hq => hq) ⟨fun hn id => ?_, fun _ hne => absurd hf hne, ?_, ?_, ?_,
    ?_⟩).ok
  · rw [hf, ← hp.deposit hn id]
    exact iff_of_false nofun (hd id)
  · rw [hback]; exact hp.backlog
  · rw [hback]; exact hp.backlogOnce
  · rw [hback, hmode]; exact hp.backlogMode
  · rw [hback, hnot]; exact hp.backlogFull

/-- EXPIRED is answered where the deposit context has lapsed. -/
theorem putStatus_expired (h : s.putStatus p = .expired) (id : Nat) : (s.port p).deposit ≠ .opened id := by
  intro hd
  unfold State.putStatus at h
  rw [hd] at h
  split at h <;> cases h

theorem execPut_lawful {b : Byte} (he : execPut p b s = .next t) : Lawful X s t := by
  refine onRow_lawful he fun hk => ?_
  cases hk
  by_cases hst : s.putStatus p = .expired
  · exact endLapse_lawful (putStatus_expired hst) (if_pos hst) rfl rfl rfl rfl
  · refine lawful_modPort ⟨rfl, ?_, le_rfl⟩
    simp only [PortState.booked, if_neg hst]

theorem depositByte_lawful {id : Nat} {r : Record} (hr : s.record? id = some r) (a : Nat) (b : Byte) :
    Lawful X s (s.depositByte id r a b) := by
  have hmem : Quiet s { s with mem := Memory.write a b s.mem } := quiet_of_ports rfl rfl rfl fun _ => .refl _
  have hput : Quiet { s with mem := Memory.write a b s.mem }
      ({ s with mem := Memory.write a b s.mem }.putRecord id { r with deposited := r.deposited + 1 }) :=
    quiet_putRecord hr rfl rfl
  exact ((hmem.trans hput).trans (quiet_wakeReaders _ id)).lawful

theorem putByte_lawful {b : Byte} {u : PutCtx} (h : s.putByte p b = .ok (t, u)) : Lawful X s t := by
  unfold State.putByte at h
  dsimp only at h
  split at h
  · split at h
    · cases h; exact .refl _
    · rename_i hd
      cases h
      exact endLapse_lawful (fun id he => nomatch hd.symm.trans he) rfl rfl rfl rfl rfl
    · split at h
      · cases h
      · rename_i r hr
        split at h
        · split at h
          · cases h
          · cases h; exact depositByte_lawful hr _ _
        · cases h; exact .refl _
  · cases h; exact .refl _

theorem execPutDataByte_lawful {b : Byte} (he : execPutDataByte p b s = .next t) : Lawful X s t := by
  refine onRow_lawful he fun hk => ?_
  split at hk
  · cases hk
  · rename_i hput
    cases hk
    exact (putByte_lawful hput).trans (lawful_modPort ⟨rfl, rfl, le_rfl⟩)

theorem sealRecord_lawful {id : Nat} {r : Record} (hd : (s.port p).deposit = .opened id) (hr : s.record? id = some r) :
    Lawful X s (s.sealRecord p id r) := by
  have hclose : PoolSame ((s.trim id r).publish id)
      ((((s.trim id r).publish id).modPort p fun q => { q with deposit := .none }).wakeReaders id) :=
    .trans (poolSame_modPort rfl) (quiet_wakeReaders _ id).pool
  have hkept : PoolKept (s.trim id r) (s.sealRecord p id r) :=
    ((quiet_publish _ id).kept.trans hclose.kept).trans (retire_kept _ _)
  exact .of_sizes ((trim_sizes s id r).trans hkept.sizes) fun hs hb =>
    ⟨hkept.pool (hs.trim hr), hb.sealRecord r hd⟩

theorem execSeal_lawful (he : execSeal p s = .next t) : Lawful X s t := by
  refine takeCommandByte_lawful he (.gated fun _ => ?_)
  split
  · exact .refused _
  · rename_i hd
    exact .reply (endLapse_lawful (fun id he => nomatch hd.symm.trans he) rfl rfl rfl rfl rfl) _
  · rename_i id hd
    split
    · exact .error _
    · rename_i r hr
      exact .reply (sealRecord_lawful hd hr) _

theorem cancelRecord_lawful {id : Nat} (hd : (s.port p).deposit = .opened id) :
    Lawful X s (s.cancelRecord p id) := by
  have hclose : PoolSame s ((s.abort id .cancelled).modPort p fun q => { q with deposit := .none }) :=
    (abort_poolSame s id _).trans (poolSame_modPort rfl)
  exact .of_kept (hclose.kept.trans (retire_kept _ _)) fun hb => hb.cancelRecord hd

theorem execCancel_lawful (he : execCancel p s = .next t) : Lawful X s t := by
  refine takeCommandByte_lawful he (.gated fun _ => ?_)
  split
  · exact .refused _
  · rename_i hd
    exact .reply (endLapse_lawful (fun id he => nomatch hd.symm.trans he) rfl rfl rfl rfl rfl) _
  · rename_i id hd
    split
    · exact .error _
    · exact .reply (cancelRecord_lawful hd) _

/-! ### Fetching and reading -/

theorem quiet_beginFetch {id : Nat} {r : Record} (hr : s.record? id = some r) (c : Cls) (streak : Nat) :
    Quiet s (s.beginFetch p c id r streak) := by
  refine .trans (t := s.putRecord id (r.withStage p .fetching)) (quiet_putRecord hr rfl rfl) (quiet_modPort ?_)
  exact (PortState.setQueue_stays _ c _).trans ⟨rfl, rfl, le_rfl⟩

theorem execFetch_lawful (he : execFetch p s = .next t) : Lawful X s t := by
  refine takeCommandByte_lawful he (.gated fun _ => ?_)
  split
  · exact .refused _
  · dsimp only
    split
    · exact .reply (lawful_modPort ⟨rfl, rfl, le_rfl⟩) _
    · split
      · exact .error _
      · split
        · exact .error _
        · rename_i hr
          exact .reply (quiet_beginFetch hr _ _).lawful _

theorem execGet_lawful {b : Byte} (he : execGet p b s = .next t) : Lawful X s t := by
  refine takeCommand_lawful he fun _ => .gated fun _ => ?_
  split
  · exact .refused _
  · split
    · exact .error _
    · dsimp only
      exact .ok (lawful_modPort ⟨rfl, rfl, le_rfl⟩) _ _

theorem execGetPayloadByte_lawful (he : execGetPayloadByte p s = .next t) : Lawful X s t := by
  refine onByte_lawful he fun ph hk => ?_
  dsimp only at hk
  split at hk
  · split at hk
    · cases hk
    · cases hk; exact lawful_modPort ⟨rfl, rfl, le_rfl⟩
  · cases hk

theorem endFetch_lawful (s : State) (p : Port) (id : Nat) (f : Fate) : Lawful X s (s.endFetch p id f) := by
  have hclose : Quiet s (s.modPort p fun q => { q with fetch := none }) := quiet_modPort ⟨rfl, rfl, le_rfl⟩
  exact (hclose.trans (quiet_endDeliveries _ id _)).lawful.trans (retire_lawful _ _)

theorem quiet_deferFetch {id : Nat} {r : Record} (hr : s.record? id = some r) : Quiet s (s.deferFetch p id r) := by
  refine .trans (t := s.putRecord id (r.withStage p .queued)) (quiet_putRecord hr rfl rfl) (quiet_modPort ?_)
  exact (PortState.setQueue_stays _ r.cls _).trans ⟨rfl, rfl, le_rfl⟩

theorem execRelease_lawful {b : Byte} (he : execRelease p b s = .next t) : Lawful X s t := by
  refine takeCommand_lawful he fun _ => .gated fun _ => ?_
  split
  · exact .refused _
  · split
    · exact .refused _
    · split
      · exact .error _
      · rename_i hr
        split
        · exact .reply (endFetch_lawful s p _ _) _
        · exact .reply (quiet_deferFetch hr).lawful _

theorem quiet_completeForward {id : Nat} {r : Record} (hr : s.record? id = some r) (members : PortSet) :
    Quiet s (s.completeForward p id r members) := by
  unfold State.completeForward
  dsimp only
  refine .trans ?_ (Quiet.foldl (fun t q => ?_) _ _)
  · exact quiet_putRecord hr rfl rfl
  · refine .trans (quiet_modPort ?_) (quiet_raise _ q .arrival)
    exact (PortState.setQueue_stays _ r.cls _).trans ⟨rfl, rfl, le_rfl⟩

theorem takeForward_taking {id : Nat} {r : Record} (hr : s.record? id = some r) (dests : PortSet) :
    Taking X s (s.takeForward p dests id r) := by
  unfold State.takeForward
  split
  · exact .refused _
  · split
    · exact .refused _
    · split
      · exact .refused _
      · dsimp only
        split
        · exact .refused _
        · exact .reply (quiet_completeForward hr _).lawful _

theorem execForward_lawful {b : Byte} (he : execForward p b s = .next t) : Lawful X s t := by
  refine takeCommand_lawful he fun _ => .gated fun _ => ?_
  split
  · exact .refused _
  · split
    · exact .error _
    · rename_i hr
      exact takeForward_taking hr _

/-! ### Notices, agreement and inspection -/

theorem removeNotice_lawful (s : State) (p : Port) : Lawful X s (s.removeNotice p) :=
  .of_sizes (removeNotice_sizes s p) fun hs hb => ⟨hs.removeNotice hb p, hb.removeNotice p⟩

theorem execNotice_lawful (he : execNotice p s = .next t) : Lawful X s t := by
  refine takeCommandByte_lawful he (.gated fun _ => ?_)
  split
  · exact .refused _
  · exact .reply (removeNotice_lawful s p) _

theorem postingCheck_sizes (s : State) (p : Port) : SameSizes s (s.postingCheck p) := by
  unfold State.postingCheck
  split
  · exact .refl s
  · rename_i id rest _
    have hrest : SameSizes s ((s.modPort p fun q => { q with backlog := rest }).freeRecord id) :=
      (poolSame_modPort (f := fun q => { q with backlog := rest }) rfl).sizes
    split
    · split
      · exact .refl s
      · exact hrest.trans (quiet_appendNotice _ _ _).pool.sizes
    · exact .refl s

theorem execReceiptPosting_lawful (he : execReceiptPosting p s = .next t) : Lawful X s t := by
  cases he
  exact .of_sizes (postingCheck_sizes s p) fun hs hb => by rw [hb.postingCheck_eq]; exact ⟨hs, hb⟩

theorem execPropose_lawful {b : Byte} (he : execPropose p b s = .next t) : Lawful X s t := by
  refine takeCommand_lawful he fun _ => .gated fun _ => ?_
  split
  · exact .refused _
  · split
    · exact .refused _
    · split
      · exact .reply (quiet_makeProposal s _).lawful _
      · exact .refused _

theorem quiet_endorse (s : State) (p : Port) (a : Proposal) : Quiet s (s.endorse p a) := by
  unfold State.endorse
  split
  · exact .refl s
  · exact quiet_holdOrAdopt s _

theorem execEndorse_lawful {b : Byte} (he : execEndorse p b s = .next t) : Lawful X s t := by
  refine takeCommand_lawful he fun _ => .gated fun _ => ?_
  split
  · exact .refused _
  · split
    · exact .refused _
    · split
      · exact .refused _
      · exact .reply (quiet_endorse s p _).lawful _

theorem execDecline_lawful {b : Byte} (he : execDecline p b s = .next t) : Lawful X s t := by
  refine takeCommand_lawful he fun _ => .gated fun _ => ?_
  split
  · exact .refused _
  · split
    · exact .refused _
    · split
      · exact .refused _
      · exact .reply (quiet_endProposal s _ _).lawful _

theorem execInspectMessage_lawful {b : Byte} (he : execInspectMessage p b s = .next t) : Lawful X s t := by
  refine takeCommand_lawful he fun _ => .gated fun _ => ?_
  split
  · exact .refused _
  · split
    · exact .refused _
    · exact .refused _

theorem execInspectPool_lawful {b : Byte} (he : execInspectPool p b s = .next t) : Lawful X s t :=
  takeCommand_lawful he fun _ => .gated fun _ => .refused _

theorem execInspectSettings_lawful {b : Byte} (he : execInspectSettings p b s = .next t) : Lawful X s t :=
  takeCommand_lawful he fun _ => .gated fun _ => .refused _

theorem execInspectInvalidKind_lawful {b : Byte} (he : execInspectInvalidKind p b s = .next t) : Lawful X s t :=
  takeCommand_lawful he fun _ => .gated fun _ => .refused _

/-! ### The serial port and its lines -/

theorem execBadcmd_lawful {b : Byte} (he : execBadcmd p b s = .next t) : Lawful X s t :=
  onRow_lawful he fun hk => by cases hk; exact lawful_modPort ⟨rfl, rfl, le_rfl⟩

theorem execSelectFall_lawful (he : execSelectFall p s = .next t) : Lawful X s t := by
  unfold execSelectFall at he
  split at he <;> cases he
  · exact lawful_modPort ⟨rfl, rfl, le_rfl⟩
  · exact .refl _

theorem execSelectRise_lawful {n : Nat} (he : execSelectRise p n s = .next t) : Lawful X s t := by
  unfold execSelectRise at he
  split at he <;> cases he
  · exact .refl _
  · exact lawful_modPort ⟨rfl, rfl, le_rfl⟩

theorem execPortResetFall_lawful {n : Nat} (he : execPortResetFall p n s = .next t) : Lawful X s t := by
  have hfall : Lawful X s (s.modPort p fun q => q.resetFall n) := lawful_modPort ⟨rfl, rfl, le_rfl⟩
  unfold execPortResetFall at he
  split at he <;> cases he
  · split
    · exact hfall.trans (teardownStart_lawful _ p _)
    · exact hfall
  · exact .refl _

theorem execPortResetRise_lawful (he : execPortResetRise p s = .next t) : Lawful X s t := by
  unfold execPortResetRise at he
  split at he <;> cases he
  · exact .refl _
  · exact lawful_modPort ⟨rfl, rfl, le_rfl⟩

theorem execArgumentByteReceived_lawful {b : Byte} (he : execArgumentByteReceived p b s = .next t) : Lawful X s t :=
  onRow_lawful he fun hk => by cases hk; exact lawful_modPort ⟨rfl, rfl, le_rfl⟩

theorem execReplyByteShiftedOut_lawful (he : execReplyByteShiftedOut p s = .next t) : Lawful X s t := by
  refine onByte_lawful he fun ph hk => ?_
  dsimp only at hk
  split at hk <;> cases hk
  exact lawful_modPort ⟨rfl, rfl, le_rfl⟩

/-! ### Events of the whole part -/

theorem execChipReset_lawful (he : execChipReset s = .next t) : Lawful (fun _ => True) s t := by
  cases he
  exact ⟨fun _ hq => absurd trivial hq, fun _ _ => ⟨.chipReset s, .chipReset s⟩⟩

theorem execChipResetRelease_lawful (he : execChipResetRelease s = .next t) : Lawful X s t := by
  unfold execChipResetRelease at he
  split at he <;> cases he
  · exact .refl _
  · refine Quiet.lawful (quiet_of_ports rfl rfl rfl fun q => ?_)
    have hq : (s.ports.map fun x => { x with txn := Txn.quiet x.listeningPhase }).get q =
        { s.port q with txn := Txn.quiet (s.port q).listeningPhase } := PerPort.get_map _ _ _
    show (s.port q).Stays ((s.ports.map fun x => { x with txn := Txn.quiet x.listeningPhase }).get q)
    rw [hq]
    exact ⟨rfl, rfl, le_rfl⟩

theorem execTick_lawful {order : List TickTask} (he : execTick order s = .next t) : Lawful X s t := by
  unfold execTick at he
  split at he <;> cases he
  · have hcount := quiet_countdown s
    obtain ⟨hsizes, hreturned⟩ := tickTasks_moves (order ++ allTickTasks) s.countdown
    refine .of_sizes (hcount.pool.sizes.trans hsizes) fun hs hb => ?_
    obtain ⟨hpool, hbooks⟩ := tickTasks_keeps (order ++ allTickTasks) (hcount.pool.keeps hs)
      (hcount.books.keeps hb.but).ok
    exact ⟨hs.returnedInOrder hpool (hcount.pool.returned.trans hreturned),
      ((booksSame_returnedInOrder s _).keeps hbooks.but).ok⟩
  · exact .refl _

theorem expire_lawful (s : State) (id : Nat) : Lawful X s ((s.expire id).retire [id]) :=
  .trans (.of_kept (expire_poolSame s id).kept fun hb => hb.expire id) (retire_lawful _ _)

theorem execExpiryOfOpenRecord_lawful {id : Nat} (he : execExpiryOfOpenRecord id s = .next t) : Lawful X s t := by
  unfold execExpiryOfOpenRecord at he
  split at he <;> cases he
  · exact expire_lawful s id
  · exact .refl _

theorem execExpiryOfSealedRecord_lawful {id : Nat} (he : execExpiryOfSealedRecord id s = .next t) : Lawful X s t := by
  unfold execExpiryOfSealedRecord at he
  split at he <;> cases he
  · exact expire_lawful s id
  · exact .refl _

theorem execLeaseExpiry_lawful (he : execLeaseExpiry p s = .next t) : Lawful X s t := by
  cases he
  exact .of_sizes (tickTask_moves s (.lease p)).1 fun hs hb => tickTask_keeps (.lease p) hs hb

theorem execProposalTimeout_lawful (he : execProposalTimeout s = .next t) : Lawful X s t := by
  cases he
  exact (quiet_timeOut s).lawful

theorem execTeardownCompletion_lawful (he : execTeardownCompletion p s = .next t) : Lawful (· = p) s t := by
  unfold execTeardownCompletion at he
  split at he <;> cases he
  · rename_i hm
    have hp : s.attached p = false := by simp [State.attached, hm]
    exact ⟨fun _ hq => teardownComplete_size_of_ne s hq, fun hs hb => ⟨hs.teardownComplete p, hb.teardownComplete hp⟩⟩
  · exact .refl _

end

/-- The ports whose reserve sizes a row can change (R4). -/
def Resizes (c : Instr) (q : Port) : Prop :=
  (∃ b, c = .reserve q b) ∨ c = .teardownCompletion q ∨ c = .chipReset

/-- Every row keeps the pool and the books, and changes no reserve size but those of `Resizes`. -/
theorem exec_lawful {c : Instr} {s t : State} (h : exec c s = .next t) : Lawful (Resizes c) s t := by
  cases c with
  | status p => exact execStatus_lawful h
  | attach p => exact execAttach_lawful h
  | detach p => exact execDetach_lawful h
  | setport p mask => exact execSetport_lawful h
  | clear p items => exact execClear_lawful h
  | reserve p b => exact (execReserve_lawful h).mono fun q hq => .inl ⟨b, by rw [hq]⟩
  | openMsg p b => exact execOpen_lawful h
  | put p count => exact execPut_lawful h
  | putDataByte p b => exact execPutDataByte_lawful h
  | sealMsg p => exact execSeal_lawful h
  | cancel p => exact execCancel_lawful h
  | fetch p => exact execFetch_lawful h
  | get p max => exact execGet_lawful h
  | getPayloadByte p => exact execGetPayloadByte_lawful h
  | release p disposition => exact execRelease_lawful h
  | forward p dests => exact execForward_lawful h
  | notice p => exact execNotice_lawful h
  | propose p b => exact execPropose_lawful h
  | endorse p b => exact execEndorse_lawful h
  | decline p setting => exact execDecline_lawful h
  | inspectMessage p id => exact execInspectMessage_lawful h
  | inspectPool p id => exact execInspectPool_lawful h
  | inspectSettings p id => exact execInspectSettings_lawful h
  | badcmd p b => exact execBadcmd_lawful h
  | selectFall p => exact execSelectFall_lawful h
  | selectRise p clocks => exact execSelectRise_lawful h
  | portResetFall p clocks => exact execPortResetFall_lawful h
  | portResetRise p => exact execPortResetRise_lawful h
  | chipReset => exact (execChipReset_lawful h).mono fun _ _ => .inr (.inr rfl)
  | chipResetRelease => exact execChipResetRelease_lawful h
  | tick order => exact execTick_lawful h
  | expiryOfOpenRecord id => exact execExpiryOfOpenRecord_lawful h
  | expiryOfSealedRecord id => exact execExpiryOfSealedRecord_lawful h
  | leaseExpiry p => exact execLeaseExpiry_lawful h
  | proposalTimeout => exact execProposalTimeout_lawful h
  | teardownCompletion p => exact (execTeardownCompletion_lawful h).mono fun q hq => .inr (.inl (by rw [hq]))
  | receiptPosting p => exact execReceiptPosting_lawful h
  | argumentByteReceived p b => exact execArgumentByteReceived_lawful h
  | replyByteShiftedOut p => exact execReplyByteShiftedOut_lawful h
  | inspectInvalidKind p id => exact execInspectInvalidKind_lawful h

/-- The queue of commands is in neither body of laws. -/
theorem quiet_pending (s : State) (l : List Instr) : Quiet s { s with pending := l } :=
  quiet_of_ports rfl rfl rfl fun _ => .refl _

/-- Every step keeps the laws of the pool together with the books. -/
theorem step_keeps_pool_and_books : Kept fun s => PoolOk s ∧ BooksOk s := by
  rintro s t ⟨hs, hb⟩ h
  unfold step at h
  split at h
  · cases h
    exact ⟨hs, hb⟩
  · rename_i c rest _
    exact (exec_lawful h).keeps ((quiet_pending s rest).pool.keeps hs) ((quiet_pending s rest).books.keeps hb.but).ok

/-- The size of SHARED is what the eight reserves leave of the pool (R4). -/
theorem PoolOk.sharedSize_bounds {s : State} (h : PoolOk s) : 128 ≤ s.sharedSize ∧ s.sharedSize ≤ 1024 := by
  have := h.sum
  simp only [State.sharedSize, Config.cellCount, Config.reserveSumMax] at *
  omega

/-- Settles O5: each row keeps the pool and the books together (`exec_lawful`), and the balance is what the laws of the
pool say of the nine accounts (`PoolOk.balance`). -/
theorem keepsPoolBalance : Obligations.KeepsPoolBalance := by
  refine ⟨step_keeps_pool_and_books, fun s h => ?_, fun c s t h p k => ?_⟩
  · exact ⟨h.balance, fun p => ⟨h.express_room p, h.bulk_room p⟩, h.sharedRoom, h.sharedSize_add, h.freeList_length,
      h.sum, h.perPort, rfl, h.sharedSize_bounds⟩
  · by_cases hr : Resizes c p
    · exact .inr hr
    · exact .inl ((exec_lawful h).sizes p hr k)

end Sys2Proof.Machine
end

section
/-! SUPPORT. The streak of a port (R76): which acts leave it alone, and that no row moves it but a FETCH that reaches
the arbiter, a teardown completion and chip reset. -/

namespace Sys2Proof.Machine

open Sys2Proof

/-- The streak of port `q` stands. -/
def KeepsStreak (q : Port) (s t : State) : Prop := (t.port q).streak = (s.port q).streak

section
variable {p q : Port} {s t u : State}

theorem KeepsStreak.refl (s : State) : KeepsStreak q s s := rfl

theorem KeepsStreak.trans (h : KeepsStreak q s t) (k : KeepsStreak q t u) : KeepsStreak q s u := Eq.trans k h

theorem KeepsStreak.foldl {α : Type} {f : State → α → State} (hf : ∀ s a, KeepsStreak q s (f s a)) (l : List α)
    (s : State) : KeepsStreak q s (l.foldl f s) := by
  induction l generalizing s with
  | nil => exact .refl s
  | cons a l ih => exact (hf s a).trans (ih _)

theorem Within.keepsStreak (h : Within s t) : KeepsStreak q s t := h.streak q

theorem keepsStreak_of_ports (h : t.ports = s.ports) : KeepsStreak q s t := by
  simp only [KeepsStreak, State.port, h]

theorem keepsStreak_modPort_of_ne {f : PortState → PortState} (h : q ≠ p) : KeepsStreak q s (s.modPort p f) := by
  rw [KeepsStreak, State.port_modPort_of_ne s f h]

theorem keepsStreak_modPort {f : PortState → PortState} (h : (f (s.port p)).streak = (s.port p).streak) :
    KeepsStreak q s (s.modPort p f) := by
  by_cases hq : q = p
  · subst hq
    rw [KeepsStreak, State.port_modPort_self, h]
  · exact keepsStreak_modPort_of_ne hq

/-! ### The agreement -/

theorem takeSetting_keepsStreak (s : State) (st : Setting) (v : Nat) : KeepsStreak q s (s.takeSetting st v) := by
  cases st with
  | tick => exact keepsStreak_of_ports rfl
  | guard => exact .trans (t := { s with guard := v }) (keepsStreak_of_ports rfl) (within_waitCheck _).keepsStreak
  | deflife => exact keepsStreak_of_ports rfl

theorem adopt_keepsStreak (s : State) (a : Proposal) : KeepsStreak q s (s.adopt a) :=
  ((takeSetting_keepsStreak s _ _).trans (within_offerAgreements _ _ _).keepsStreak).trans (keepsStreak_of_ports rfl)

theorem holdOrAdopt_keepsStreak (s : State) (a : Proposal) : KeepsStreak q s (s.holdOrAdopt a) := by
  unfold State.holdOrAdopt
  split
  · exact adopt_keepsStreak s a
  · exact keepsStreak_of_ports rfl

theorem endProposal_keepsStreak (s : State) (i : AgreementInfo) (m : PortSet) : KeepsStreak q s (s.endProposal i m) :=
  (within_offerAgreements s i m).keepsStreak.trans (keepsStreak_of_ports rfl)

theorem leaveProposal_keepsStreak (s : State) (p : Port) : KeepsStreak q s (s.leaveProposal p) := by
  unfold State.leaveProposal
  split
  · exact .refl s
  · split
    · split
      · exact endProposal_keepsStreak _ _ _
      · exact holdOrAdopt_keepsStreak _ _
    · exact .refl s

theorem timeOut_keepsStreak (s : State) : KeepsStreak q s s.timeOut := by
  unfold State.timeOut
  split
  · exact .refl s
  · split
    · exact endProposal_keepsStreak _ _ _
    · exact .refl s

theorem makeProposal_keepsStreak (s : State) (a : Proposal) : KeepsStreak q s (s.makeProposal a) := by
  unfold State.makeProposal
  split
  · exact adopt_keepsStreak s a
  · exact .trans (t := { s with slot := some a }) (keepsStreak_of_ports rfl) (within_offerAgreements _ _ _).keepsStreak

theorem endorse_keepsStreak (s : State) (p : Port) (a : Proposal) : KeepsStreak q s (s.endorse p a) := by
  unfold State.endorse
  split
  · exact .refl s
  · exact holdOrAdopt_keepsStreak s _

/-! ### Messages -/

theorem completeOpen_keepsStreak (s : State) (p : Port) (c : Cls) (a : OpenArgs) (id : Nat) (m : PortSet)
    (account : Option Charge) : KeepsStreak q s (s.completeOpen p c a id m account) := by
  have hclaimed : KeepsStreak q s (s.claimed p c a id m account) :=
    ((within_putRecord s id _).keepsStreak.trans (keepsStreak_modPort rfl)).trans (within_claim _ m).keepsStreak
  have hopened : KeepsStreak q s (s.opened p c a id m account) :=
    (hclaimed.trans (within_chargeCells _ p c account _).keepsStreak).trans (keepsStreak_modPort rfl)
  unfold State.completeOpen
  dsimp only
  split
  · exact hopened.trans (within_publish _ id).keepsStreak
  · exact hopened

theorem depositByte_keepsStreak (s : State) (id : Nat) (r : Record) (addr : Nat) (b : Byte) :
    KeepsStreak q s (s.depositByte id r addr b) := by
  have hmem : KeepsStreak q s { s with mem := Memory.write addr b s.mem } := keepsStreak_of_ports rfl
  exact hmem.trans ((within_putRecord _ id _).trans (within_wakeReaders _ id)).keepsStreak

theorem putByte_keepsStreak {b : Byte} {u : PutCtx} (h : s.putByte p b = .ok (t, u)) : KeepsStreak q s t := by
  unfold State.putByte at h
  dsimp only at h
  split at h
  · split at h
    · cases h; exact .refl _
    · cases h; exact keepsStreak_modPort rfl
    · split at h
      · cases h
      · split at h
        · split at h
          · cases h
          · cases h; exact depositByte_keepsStreak s _ _ _ b
        · cases h; exact .refl _
  · cases h; exact .refl _

theorem within_trim (s : State) (id : Nat) (r : Record) : Within s (s.trim id r) :=
  ((within_putRecord s id _).trans (within_returnCells _ _ _ _ _)).trans (within_waitCheckIfFreed _ _)

theorem sealRecord_keepsStreak (s : State) (p : Port) (id : Nat) (r : Record) :
    KeepsStreak q s (s.sealRecord p id r) :=
  (((within_trim s id r).trans (within_publish _ id)).keepsStreak.trans (keepsStreak_modPort rfl)).trans
    ((within_wakeReaders _ id).trans (within_retire _ _)).keepsStreak

theorem cancelRecord_keepsStreak (s : State) (p : Port) (id : Nat) : KeepsStreak q s (s.cancelRecord p id) :=
  ((within_abort s id _).keepsStreak.trans (keepsStreak_modPort rfl)).trans (within_retire _ _).keepsStreak

theorem endFetch_keepsStreak (s : State) (p : Port) (id : Nat) (f : Fate) : KeepsStreak q s (s.endFetch p id f) :=
  .trans (keepsStreak_modPort rfl) ((within_endDeliveries _ _ _).trans (within_retire _ _)).keepsStreak

theorem PortState.setQueue_streak (x : PortState) (c : Cls) (l : List Nat) : (x.setQueue c l).streak = x.streak := by
  cases c <;> rfl

theorem deferFetch_keepsStreak (s : State) (p : Port) (id : Nat) (r : Record) :
    KeepsStreak q s (s.deferFetch p id r) :=
  (within_putRecord s id _).keepsStreak.trans (keepsStreak_modPort (PortState.setQueue_streak _ r.cls _))

theorem completeForward_keepsStreak (s : State) (p : Port) (id : Nat) (r : Record) (m : PortSet) :
    KeepsStreak q s (s.completeForward p id r m) :=
  (within_putRecord s id _).keepsStreak.trans <| .foldl (fun _ _ =>
    (keepsStreak_modPort (PortState.setQueue_streak _ r.cls _)).trans (within_raise _ _ _).keepsStreak) _ _

/-! ### Teardown start, and what a tick takes -/

theorem loseDeposit_keepsStreak (s : State) (p : Port) : KeepsStreak q s (s.loseDeposit p) := by
  have hnone : KeepsStreak q s (s.modPort p fun x => { x with deposit := .none }) := keepsStreak_modPort rfl
  unfold State.loseDeposit
  dsimp only
  split
  · exact hnone.trans (within_abort _ _ _).keepsStreak
  · exact hnone

theorem loseFetch_keepsStreak (s : State) (p : Port) : KeepsStreak q s (s.loseFetch p) := by
  have hnone : KeepsStreak q s (s.modPort p fun x => { x with fetch := none }) := keepsStreak_modPort rfl
  unfold State.loseFetch
  dsimp only
  split
  · exact hnone
  · exact hnone.trans (within_endDeliveries _ _ _).keepsStreak

theorem departing_keepsStreak (s : State) (p : Port) (cause : TeardownCause) :
    KeepsStreak q s (s.departing p cause) := by
  refine .trans ?_ (within_waitCheckIfFreed _ _).keepsStreak
  refine .trans ?_ (keepsStreak_modPort rfl)
  refine .trans ?_ (within_retireAll _ _).keepsStreak
  refine .trans ?_ (loseFetch_keepsStreak _ p)
  refine .trans ?_ (within_mapRecords _ _).keepsStreak
  refine .trans ?_ (loseDeposit_keepsStreak _ p)
  exact keepsStreak_modPort rfl

theorem teardownStart_keepsStreak (s : State) (p : Port) (cause : TeardownCause) :
    KeepsStreak q s (s.teardownStart p cause) := by
  rw [teardownStart_eq]
  exact ((departing_keepsStreak s p cause).trans (within_discardBacklog _ p).keepsStreak).trans
    (leaveProposal_keepsStreak _ p)

theorem expire_keepsStreak (s : State) (id : Nat) : KeepsStreak q s (s.expire id) := by
  unfold State.expire
  split
  · exact .refl s
  · split
    · split
      · exact (within_abort s id _).keepsStreak.trans (keepsStreak_modPort rfl)
      · exact (within_expireSealed s id).keepsStreak
    · exact .refl s

theorem expireLease_keepsStreak (s : State) (p : Port) : KeepsStreak q s (s.expireLease p) := by
  unfold State.expireLease
  split
  · exact teardownStart_keepsStreak s p .lease
  · exact .refl s

theorem tickTask_keepsStreak (s : State) (k : TickTask) : KeepsStreak q s (s.tickTask k) := by
  cases k with
  | messages => exact (KeepsStreak.foldl expire_keepsStreak _ s).trans (within_retire _ _).keepsStreak
  | lease p => exact expireLease_keepsStreak s p
  | proposal => exact timeOut_keepsStreak s

theorem countdown_keepsStreak (s : State) : KeepsStreak q s s.countdown := by
  have hq : s.countdown.port q = (s.port q).countdown := PerPort.get_map _ _ _
  rw [KeepsStreak, hq]
  unfold PortState.countdown
  split <;> rfl

/-! ### Teardown completion and chip reset -/

theorem dissolving_keepsStreak (s : State) (p : Port) : KeepsStreak q s (s.dissolving p) :=
  ((within_purged s p).keepsStreak.trans (keepsStreak_modPort rfl)).trans
    ((within_dissolve _ p).trans (within_waitCheck _)).keepsStreak

theorem teardownComplete_keepsStreak_of_ne (s : State) (h : q ≠ p) : KeepsStreak q s (s.teardownComplete p) := by
  rw [teardownComplete_eq]
  exact ((dissolving_keepsStreak s p).trans (keepsStreak_modPort_of_ne h)).trans
    (within_offerPeers _ p false).keepsStreak

theorem teardownComplete_streak (s : State) (p : Port) : ((s.teardownComplete p).port p).streak = 0 := by
  rw [teardownComplete_eq, (within_offerPeers _ p false).streak, State.port_modPort_self]
  rfl

theorem chipReset_streak (s : State) (q : Port) : (s.chipReset.port q).streak = 0 := by
  have hq : s.chipReset.port q = (s.port q).chipReset := PerPort.get_map _ _ _
  rw [hq]
  rfl

/-! ### The framing of a transaction -/

/-- Every state that a taken command can leave has the streak of port `q` as in `s`. -/
def TakesKeepingStreak (q : Port) (s : State) (e : Except Fault Taken) : Prop :=
  ∀ k, e = .ok k → KeepsStreak q s k.state

theorem TakesKeepingStreak.ok (h : KeepsStreak q s t) (r : List Byte) (n : Nat) :
    TakesKeepingStreak q s (.ok ⟨t, r, n⟩) := by
  intro k hk
  cases hk
  exact h

theorem TakesKeepingStreak.reply (h : KeepsStreak q s t) (r : List Byte) : TakesKeepingStreak q s (replyWith t r) :=
  .ok h r 0

/-- A refused command leaves the state. -/
theorem TakesKeepingStreak.refused (r : List Byte) : TakesKeepingStreak q s (replyWith s r) := .reply (.refl s) r

theorem TakesKeepingStreak.error (f : Fault) : TakesKeepingStreak q s (.error f) := fun _ hk => nomatch hk

theorem TakesKeepingStreak.gated {r : List Byte} {e : Except Fault Taken}
    (h : s.attached p = true → TakesKeepingStreak q s e) : TakesKeepingStreak q s (whenAttached s p r e) := by
  unfold whenAttached
  split
  · exact h ‹_›
  · exact .refused r

theorem TakesKeepingStreak.finish {out : Byte} {e : Except Fault Taken} (h : TakesKeepingStreak q s e)
    (he : finishTake p out e = .next t) : KeepsStreak q s t := by
  cases e with
  | error f => cases he
  | ok k =>
    cases he
    exact (h k rfl).trans (keepsStreak_modPort rfl)

theorem onByte_keepsStreak {k : Phase → StepOutcome} (he : onByte s p k = .next t)
    (h : ∀ ph, k ph = .next t → KeepsStreak q s t) : KeepsStreak q s t := by
  unfold onByte at he
  split at he
  · cases he; exact .refl s
  · cases he; exact .refl s
  · cases he; exact .refl s
  · exact h _ he

theorem onRow_keepsStreak {b : Byte} {row : Instr} {k : StepOutcome} (he : onRow s p b row k = .next t)
    (h : k = .next t → KeepsStreak q s t) : KeepsStreak q s t := by
  rcases onRow_next he with ⟨-, rfl⟩ | ⟨-, -, hk⟩
  · exact .refl _
  · exact h hk

theorem takeCommandByte_keepsStreak {code : Byte} {row : Instr} {f : State → Except Fault Taken}
    (he : takeCommandByte s p code row f = .next t) (h : TakesKeepingStreak q s (f s)) : KeepsStreak q s t :=
  onRow_keepsStreak he h.finish

theorem takeCommand_keepsStreak {b : Byte} {row : Instr} {f : List Byte → State → Except Fault Taken}
    (he : takeCommand s p b row f = .next t) (h : ∀ args, TakesKeepingStreak q s (f args s)) : KeepsStreak q s t :=
  onRow_keepsStreak he (h _).finish

/-! ### The rows -/

theorem execStatus_keepsStreak (he : execStatus p s = .next t) : KeepsStreak q s t :=
  takeCommandByte_keepsStreak he (.refused _)

theorem execAttach_keepsStreak (he : execAttach p s = .next t) : KeepsStreak q s t := by
  refine takeCommandByte_keepsStreak he ?_
  split
  · exact .reply (.trans (keepsStreak_modPort rfl) (within_offerPeers _ p true).keepsStreak) _
  · exact .refused _

theorem execDetach_keepsStreak (he : execDetach p s = .next t) : KeepsStreak q s t :=
  takeCommandByte_keepsStreak he (.gated fun _ => .reply (teardownStart_keepsStreak s p _) _)

theorem execSetport_keepsStreak {b : Byte} (he : execSetport p b s = .next t) : KeepsStreak q s t := by
  refine takeCommand_keepsStreak he fun _ => .gated fun _ => ?_
  dsimp only
  split
  · exact .reply (keepsStreak_modPort rfl) _
  · exact .refused _

theorem execClear_keepsStreak {b : Byte} (he : execClear p b s = .next t) : KeepsStreak q s t := by
  refine takeCommand_keepsStreak he fun _ => .gated fun _ => ?_
  dsimp only
  split
  · exact .reply (keepsStreak_modPort rfl) _
  · exact .refused _

theorem PortState.setReserve_streak (x : PortState) (c : Cls) (a : Account) :
    (x.setReserve c a).streak = x.streak := by
  cases c <;> rfl

theorem resizeReserve_keepsStreak (s : State) (p : Port) (c : Cls) (r : Nat) :
    KeepsStreak q s (s.resizeReserve p c r) := by
  have hgranted : KeepsStreak q s (s.granted p c r) := keepsStreak_modPort (PortState.setReserve_streak _ c _)
  unfold State.resizeReserve
  dsimp only
  split
  · exact hgranted
  · exact hgranted.trans (within_waitCheck _).keepsStreak

theorem execReserve_keepsStreak {b : Byte} (he : execReserve p b s = .next t) : KeepsStreak q s t := by
  refine takeCommand_keepsStreak he fun _ => .gated fun _ => ?_
  split
  · exact .refused _
  · dsimp only
    split
    · exact .reply (resizeReserve_keepsStreak s p _ _) _
    · exact .refused _

theorem takeOpen_keepsStreak (a : OpenArgs) : TakesKeepingStreak q s (s.takeOpen p a) := by
  unfold State.takeOpen
  split
  · exact .refused _
  · split
    · exact .refused _
    · split
      · exact .refused _
      · split
        · exact .refused _
        · split
          · exact .refused _
          · dsimp only
            split
            · exact .refused _
            · split
              · refine .reply ?_ _
                split
                · exact keepsStreak_modPort rfl
                · exact .refl s
              · exact .reply (completeOpen_keepsStreak _ _ _ _ _ _ _) _

theorem execOpen_keepsStreak {b : Byte} (he : execOpen p b s = .next t) : KeepsStreak q s t :=
  takeCommand_keepsStreak he fun _ => .gated fun _ => takeOpen_keepsStreak _

theorem execPut_keepsStreak {b : Byte} (he : execPut p b s = .next t) : KeepsStreak q s t :=
  onRow_keepsStreak he fun hk => by cases hk; exact keepsStreak_modPort rfl

theorem execPutDataByte_keepsStreak {b : Byte} (he : execPutDataByte p b s = .next t) : KeepsStreak q s t := by
  refine onRow_keepsStreak he fun hk => ?_
  split at hk
  · cases hk
  · rename_i hput
    cases hk
    exact (putByte_keepsStreak hput).trans (keepsStreak_modPort rfl)

theorem execSeal_keepsStreak (he : execSeal p s = .next t) : KeepsStreak q s t := by
  refine takeCommandByte_keepsStreak he (.gated fun _ => ?_)
  split
  · exact .refused _
  · exact .reply (keepsStreak_modPort rfl) _
  · split
    · exact .error _
    · exact .reply (sealRecord_keepsStreak s p _ _) _

theorem execCancel_keepsStreak (he : execCancel p s = .next t) : KeepsStreak q s t := by
  refine takeCommandByte_keepsStreak he (.gated fun _ => ?_)
  split
  · exact .refused _
  · exact .reply (keepsStreak_modPort rfl) _
  · split
    · exact .error _
    · exact .reply (cancelRecord_keepsStreak s p _) _

theorem execGet_keepsStreak {b : Byte} (he : execGet p b s = .next t) : KeepsStreak q s t := by
  refine takeCommand_keepsStreak he fun _ => .gated fun _ => ?_
  split
  · exact .refused _
  · split
    · exact .error _
    · dsimp only
      exact .ok (keepsStreak_modPort rfl) _ _

theorem execGetPayloadByte_keepsStreak (he : execGetPayloadByte p s = .next t) : KeepsStreak q s t := by
  refine onByte_keepsStreak he fun ph hk => ?_
  dsimp only at hk
  split at hk
  · split at hk <;> cases hk
    exact keepsStreak_modPort rfl
  · cases hk

theorem execRelease_keepsStreak {b : Byte} (he : execRelease p b s = .next t) : KeepsStreak q s t := by
  refine takeCommand_keepsStreak he fun _ => .gated fun _ => ?_
  split
  · exact .refused _
  · split
    · exact .refused _
    · split
      · exact .error _
      · split
        · exact .reply (endFetch_keepsStreak s p _ _) _
        · exact .reply (deferFetch_keepsStreak s p _ _) _

theorem takeForward_keepsStreak (s : State) (p : Port) (dests : PortSet) (id : Nat) (r : Record) :
    TakesKeepingStreak q s (s.takeForward p dests id r) := by
  unfold State.takeForward
  split
  · exact .refused _
  · split
    · exact .refused _
    · split
      · exact .refused _
      · dsimp only
        split
        · exact .refused _
        · exact .reply (completeForward_keepsStreak s p id r _) _

theorem execForward_keepsStreak {b : Byte} (he : execForward p b s = .next t) : KeepsStreak q s t := by
  refine takeCommand_keepsStreak he fun _ => .gated fun _ => ?_
  split
  · exact .refused _
  · split
    · exact .error _
    · exact takeForward_keepsStreak s p _ _ _

theorem execNotice_keepsStreak (he : execNotice p s = .next t) : KeepsStreak q s t := by
  refine takeCommandByte_keepsStreak he (.gated fun _ => ?_)
  split
  · exact .refused _
  · exact .reply (within_removeNotice s p).keepsStreak _

theorem execPropose_keepsStreak {b : Byte} (he : execPropose p b s = .next t) : KeepsStreak q s t := by
  refine takeCommand_keepsStreak he fun _ => .gated fun _ => ?_
  split
  · exact .refused _
  · split
    · exact .refused _
    · split
      · exact .reply (makeProposal_keepsStreak s _) _
      · exact .refused _

theorem execEndorse_keepsStreak {b : Byte} (he : execEndorse p b s = .next t) : KeepsStreak q s t := by
  refine takeCommand_keepsStreak he fun _ => .gated fun _ => ?_
  split
  · exact .refused _
  · split
    · exact .refused _
    · split
      · exact .refused _
      · exact .reply (endorse_keepsStreak s p _) _

theorem execDecline_keepsStreak {b : Byte} (he : execDecline p b s = .next t) : KeepsStreak q s t := by
  refine takeCommand_keepsStreak he fun _ => .gated fun _ => ?_
  split
  · exact .refused _
  · split
    · exact .refused _
    · split
      · exact .refused _
      · exact .reply (endProposal_keepsStreak s _ _) _

theorem execInspectMessage_keepsStreak {b : Byte} (he : execInspectMessage p b s = .next t) : KeepsStreak q s t := by
  refine takeCommand_keepsStreak he fun _ => .gated fun _ => ?_
  split
  · exact .refused _
  · split
    · exact .refused _
    · exact .refused _

theorem execInspectPool_keepsStreak {b : Byte} (he : execInspectPool p b s = .next t) :
    KeepsStreak q s t :=
  takeCommand_keepsStreak he fun _ => .gated fun _ => .refused _

theorem execInspectSettings_keepsStreak {b : Byte} (he : execInspectSettings p b s = .next t) :
    KeepsStreak q s t :=
  takeCommand_keepsStreak he fun _ => .gated fun _ => .refused _

theorem execInspectInvalidKind_keepsStreak {b : Byte} (he : execInspectInvalidKind p b s = .next t) :
    KeepsStreak q s t :=
  takeCommand_keepsStreak he fun _ => .gated fun _ => .refused _

theorem execBadcmd_keepsStreak {b : Byte} (he : execBadcmd p b s = .next t) : KeepsStreak q s t :=
  onRow_keepsStreak he fun hk => by cases hk; exact keepsStreak_modPort rfl

theorem execSelectFall_keepsStreak (he : execSelectFall p s = .next t) : KeepsStreak q s t := by
  unfold execSelectFall at he
  split at he <;> cases he
  · exact keepsStreak_modPort rfl
  · exact .refl _

theorem execSelectRise_keepsStreak {n : Nat} (he : execSelectRise p n s = .next t) : KeepsStreak q s t := by
  unfold execSelectRise at he
  split at he <;> cases he
  · exact .refl _
  · exact keepsStreak_modPort rfl

theorem execPortResetFall_keepsStreak {n : Nat} (he : execPortResetFall p n s = .next t) : KeepsStreak q s t := by
  have hfall : KeepsStreak q s (s.modPort p fun x => x.resetFall n) := keepsStreak_modPort rfl
  unfold execPortResetFall at he
  split at he <;> cases he
  · split
    · exact hfall.trans (teardownStart_keepsStreak _ p _)
    · exact hfall
  · exact .refl _

theorem execPortResetRise_keepsStreak (he : execPortResetRise p s = .next t) : KeepsStreak q s t := by
  unfold execPortResetRise at he
  split at he <;> cases he
  · exact .refl _
  · exact keepsStreak_modPort rfl

theorem execArgumentByteReceived_keepsStreak {b : Byte} (he : execArgumentByteReceived p b s = .next t) :
    KeepsStreak q s t :=
  onRow_keepsStreak he fun hk => by cases hk; exact keepsStreak_modPort rfl

theorem execReplyByteShiftedOut_keepsStreak (he : execReplyByteShiftedOut p s = .next t) : KeepsStreak q s t := by
  refine onByte_keepsStreak he fun ph hk => ?_
  dsimp only at hk
  split at hk <;> cases hk
  exact keepsStreak_modPort rfl

theorem execChipResetRelease_keepsStreak (he : execChipResetRelease s = .next t) : KeepsStreak q s t := by
  unfold execChipResetRelease at he
  split at he <;> cases he
  · exact .refl _
  · have hq : (s.ports.map fun x => { x with txn := Txn.quiet x.listeningPhase }).get q =
        { s.port q with txn := Txn.quiet (s.port q).listeningPhase } := PerPort.get_map _ _ _
    have hstreak := congrArg PortState.streak hq
    exact hstreak

theorem execTick_keepsStreak {order : List TickTask} (he : execTick order s = .next t) : KeepsStreak q s t := by
  unfold execTick at he
  split at he <;> cases he
  · exact ((countdown_keepsStreak s).trans (.foldl tickTask_keepsStreak _ _)).trans (keepsStreak_of_ports rfl)
  · exact .refl _

theorem execExpiryOfOpenRecord_keepsStreak {id : Nat} (he : execExpiryOfOpenRecord id s = .next t) :
    KeepsStreak q s t := by
  unfold execExpiryOfOpenRecord at he
  split at he <;> cases he
  · exact (expire_keepsStreak s id).trans (within_retire _ _).keepsStreak
  · exact .refl _

theorem execExpiryOfSealedRecord_keepsStreak {id : Nat} (he : execExpiryOfSealedRecord id s = .next t) :
    KeepsStreak q s t := by
  unfold execExpiryOfSealedRecord at he
  split at he <;> cases he
  · exact (expire_keepsStreak s id).trans (within_retire _ _).keepsStreak
  · exact .refl _

/-- A teardown completion does nothing, or sets the streak of its own port to 0 and leaves the others (R132). -/
theorem execTeardownCompletion_streak (he : execTeardownCompletion p s = .next t) :
    KeepsStreak q s t ∨ q = p ∧ (t.port q).streak = 0 := by
  unfold execTeardownCompletion at he
  split at he <;> cases he
  · by_cases h : q = p
    · subst h; exact .inr ⟨rfl, teardownComplete_streak s q⟩
    · exact .inl (teardownComplete_keepsStreak_of_ne s h)
  · exact .inl (.refl _)

/-! ### FETCH -/

theorem ite_ne_of_ne {α : Type} {P : Prop} [Decidable P] {a b c : α} (ha : a ≠ c) (hb : b ≠ c) :
    (if P then a else b) ≠ c := by
  split
  · exact ha
  · exact hb

/-- A last argument byte is no FETCH, which has no argument bytes (R179). -/
theorem lastArgumentRow_ne_fetch (p : Port) (code : Byte) (args : List Byte) (b : Byte) :
    lastArgumentRow p code args b ≠ some (.fetch q) := by
  unfold lastArgumentRow
  iterate 11 refine ite_ne_of_ne nofun ?_
  refine ite_ne_of_ne ?_ nofun
  split <;> exact nofun

/-- A byte is the row FETCH in phase COMMAND alone (R154, R157). -/
theorem inCommand_of_byteRow_fetch {b : Byte} (h : s.byteRow p b = some (.fetch q)) : s.inCommand p := by
  unfold State.byteRow at h
  dsimp only at h
  split at h
  · assumption
  · split at h
    · cases h
    · split at h
      · exact absurd h (lastArgumentRow_ne_fetch _ _ _ _)
      · cases h
  · cases h
  · split at h <;> cases h
  · split at h <;> cases h
  · cases h

/-- The FETCH of port `p` reaches the arbiter (R75, R76). -/
def State.reachesArbiter (s : State) (p : Port) : Prop :=
  s.inCommand p ∧ s.attached p = true ∧ (s.port p).fetch = none

theorem execFetch_keepsStreak (he : execFetch p s = .next t) (hq : ¬ (q = p ∧ s.reachesArbiter p)) :
    KeepsStreak q s t := by
  rcases onRow_next he with ⟨-, rfl⟩ | ⟨-, hrow, hk⟩
  · exact .refl _
  · refine TakesKeepingStreak.finish (.gated fun hatt => ?_) hk
    split
    · exact .refused _
    · rename_i hfetch
      have hne : q ≠ p := fun h =>
        hq ⟨h, inCommand_of_byteRow_fetch hrow, hatt, Option.not_isSome_iff_eq_none.1 hfetch⟩
      dsimp only
      split
      · exact .reply (keepsStreak_modPort_of_ne hne) _
      · split
        · exact .error _
        · split
          · exact .error _
          · exact .reply ((within_putRecord s _ _).keepsStreak.trans (keepsStreak_modPort_of_ne hne)) _

end

/-- The events that can change the streak of port `q` (R76). -/
inductive MovesStreak (q : Port) (s : State) : Instr → Prop where
  | fetch : s.reachesArbiter q → MovesStreak q s (.fetch q)
  | teardownCompletion : MovesStreak q s (.teardownCompletion q)
  | chipReset : MovesStreak q s .chipReset

/-- Every other event leaves the streak. -/
theorem exec_keepsStreak {c : Instr} {q : Port} {s t : State} (h : exec c s = .next t) (hc : ¬ MovesStreak q s c) :
    KeepsStreak q s t := by
  cases c with
  | status p => exact execStatus_keepsStreak h
  | attach p => exact execAttach_keepsStreak h
  | detach p => exact execDetach_keepsStreak h
  | setport p mask => exact execSetport_keepsStreak h
  | clear p items => exact execClear_keepsStreak h
  | reserve p b => exact execReserve_keepsStreak h
  | openMsg p b => exact execOpen_keepsStreak h
  | put p count => exact execPut_keepsStreak h
  | putDataByte p b => exact execPutDataByte_keepsStreak h
  | sealMsg p => exact execSeal_keepsStreak h
  | cancel p => exact execCancel_keepsStreak h
  | fetch p => exact execFetch_keepsStreak h fun ⟨hq, hr⟩ => hc (hq ▸ .fetch (hq ▸ hr))
  | get p max => exact execGet_keepsStreak h
  | getPayloadByte p => exact execGetPayloadByte_keepsStreak h
  | release p disposition => exact execRelease_keepsStreak h
  | forward p dests => exact execForward_keepsStreak h
  | notice p => exact execNotice_keepsStreak h
  | propose p b => exact execPropose_keepsStreak h
  | endorse p b => exact execEndorse_keepsStreak h
  | decline p setting => exact execDecline_keepsStreak h
  | inspectMessage p id => exact execInspectMessage_keepsStreak h
  | inspectPool p id => exact execInspectPool_keepsStreak h
  | inspectSettings p id => exact execInspectSettings_keepsStreak h
  | badcmd p b => exact execBadcmd_keepsStreak h
  | selectFall p => exact execSelectFall_keepsStreak h
  | selectRise p clocks => exact execSelectRise_keepsStreak h
  | portResetFall p clocks => exact execPortResetFall_keepsStreak h
  | portResetRise p => exact execPortResetRise_keepsStreak h
  | chipReset => exact absurd .chipReset hc
  | chipResetRelease => exact execChipResetRelease_keepsStreak h
  | tick order => exact execTick_keepsStreak h
  | expiryOfOpenRecord id => exact execExpiryOfOpenRecord_keepsStreak h
  | expiryOfSealedRecord id => exact execExpiryOfSealedRecord_keepsStreak h
  | leaseExpiry p => cases h; exact expireLease_keepsStreak s p
  | proposalTimeout => cases h; exact timeOut_keepsStreak s
  | teardownCompletion p =>
    exact (execTeardownCompletion_streak h).resolve_right fun hq => hc (hq.1 ▸ .teardownCompletion)
  | receiptPosting p => cases h; exact (within_postingCheck s p).keepsStreak
  | argumentByteReceived p b => exact execArgumentByteReceived_keepsStreak h
  | replyByteShiftedOut p => exact execReplyByteShiftedOut_keepsStreak h
  | inspectInvalidKind p id => exact execInspectInvalidKind_keepsStreak h

/-- The events that change a streak, and the streak they leave where it is not the arbiter's (R76, R132, R140). -/
theorem exec_streak_cases {c : Instr} {s t : State} (h : exec c s = .next t) (q : Port) :
    KeepsStreak q s t ∨ c = .fetch q ∧ s.reachesArbiter q ∨
      (t.port q).streak = 0 ∧ (c = .teardownCompletion q ∨ c = .chipReset) := by
  by_cases hc : MovesStreak q s c
  · cases hc with
    | fetch hr => exact .inr (.inl ⟨rfl, hr⟩)
    | teardownCompletion => exact (execTeardownCompletion_streak h).imp_right fun ⟨_, h0⟩ => .inr ⟨h0, .inl rfl⟩
    | chipReset =>
      cases h
      exact .inr (.inr ⟨chipReset_streak s q, .inr rfl⟩)
  · exact .inl (exec_keepsStreak h hc)

end Sys2Proof.Machine
end

section
/-! SUPPORT. The fetch arbiter (R76): the queue a FETCH takes from and the streak afterwards; and the obligation
FetchArbiter. -/

namespace Sys2Proof.Machine

open Sys2Proof

section
variable {x : PortState}

theorem arbitrate_express (he : x.express ≠ []) (h : x.bulk = [] ∨ x.streak < x.bias) :
    x.arbitrate = (some .express, min (x.streak + 1) Config.biasMax) := by
  simp [PortState.arbitrate, he, h]

theorem arbitrate_bulk (hb : x.bulk ≠ []) (h : x.express = [] ∨ ¬ x.streak < x.bias) :
    x.arbitrate = (some .bulk, 0) := by
  by_cases he : x.express = []
  · simp [PortState.arbitrate, he, hb]
  · simp [PortState.arbitrate, he, hb, h.resolve_left he]

theorem arbitrate_empty (he : x.express = []) (hb : x.bulk = []) : x.arbitrate = (none, 0) := by
  simp [PortState.arbitrate, he, hb]

end

section
variable {s t : State} {p : Port} {c : Cls} {n : Nat}

/-- What a FETCH that reaches the arbiter does with its decision (R76, R77). -/
def State.fetchPicked (s : State) (p : Port) : Option Cls × Nat → Except Fault Taken
  | (none, n) => replyWith (s.modPort p fun q => { q with streak := n }) (fetchRefused .empty)
  | (some c, n) =>
    match ((s.port p).queue c).head? with
    | none => .error .danglingRecord
    | some id =>
      match s.record? id with
      | none => .error .danglingRecord
      | some r => replyWith (s.beginFetch p c id r n) (r.fetchReply id p)

theorem execFetch_arbitrated (h : s.reachesArbiter p) :
    execFetch p s = finishTake p (s.port p).txn.summary (s.fetchPicked p (s.port p).arbitrate) := by
  obtain ⟨hcmd, hatt, hfetch⟩ := h
  have hfree : ¬ (s.port p).fetch.isSome = true := by simp [hfetch]
  rw [execFetch, takeCommandByte_command (row := .fetch p) hcmd rfl, whenAttached, if_pos hatt, if_neg hfree]
  rcases (s.port p).arbitrate with ⟨_ | _, _⟩ <;> rfl

/-- A FETCH from empty queues leaves the port as it is, but for the streak and the reply EMPTY. -/
theorem execFetch_empty (hr : s.reachesArbiter p) (ha : (s.port p).arbitrate = (none, n))
    (h : execFetch p s = .next t) :
    t.port p = { s.port p with streak := n, txn := (t.port p).txn } ∧
      (t.port p).txn.reply = fetchRefused .empty := by
  rw [execFetch_arbitrated hr, ha] at h
  cases h
  simp [Txn.beginReply]

/-- A FETCH from the queue of class `c` takes its head (R77). -/
theorem execFetch_takes (hr : s.reachesArbiter p) (ha : (s.port p).arbitrate = (some c, n))
    (h : execFetch p s = .next t) :
    ∃ id, ((s.port p).queue c).head? = some id ∧
      t.port p =
        { (s.port p).setQueue c ((s.port p).queue c).tail with
          streak := n, fetch := some ⟨id, 0, false⟩, txn := (t.port p).txn } := by
  rw [execFetch_arbitrated hr, ha] at h
  unfold State.fetchPicked at h
  split at h
  · rename_i heq; cases heq
  · rename_i heq
    cases heq
    split at h
    · cases h
    · rename_i id hid
      split at h
      · cases h
      · cases h
        exact ⟨id, hid, by simp [State.beginFetch]⟩

end

/-- Settles O36: the four rows of the table of R76 are the three answers of the arbiter (`arbitrate_express`,
`arbitrate_bulk`, `arbitrate_empty`) carried out by FETCH, and the events that change a streak are
`exec_streak_cases`. -/
theorem fetchArbiter : Obligations.FetchArbiter := by
  refine ⟨fun s p hcmd hatt hfetch => ?_, fun c s t h p => exec_streak_cases h p⟩
  intro q t h
  have hr : s.reachesArbiter p := ⟨hcmd, hatt, hfetch⟩
  have hbulk : q.bulk ≠ [] → (q.express = [] ∨ ¬ q.streak < q.bias) →
      (t.port p).bulk = q.bulk.tail ∧ (t.port p).express = q.express ∧
        (t.port p).fetch.map FetchCtx.id = q.bulk.head? ∧ (t.port p).streak = 0 := by
    intro hb hx
    obtain ⟨id, hid, ht⟩ := execFetch_takes hr (arbitrate_bulk hb hx) h
    rw [ht]
    exact ⟨rfl, rfl, hid.symm, rfl⟩
  refine ⟨fun he hx => ?_, fun _ hb hx => hbulk hb (.inr hx), fun he hb => ?_, fun he hb => ?_⟩
  · obtain ⟨id, hid, ht⟩ := execFetch_takes hr (arbitrate_express he hx) h
    rw [ht]
    exact ⟨rfl, rfl, hid.symm, rfl⟩
  · exact he ▸ hbulk hb (.inl he)
  · obtain ⟨ht, hreply⟩ := execFetch_empty hr (arbitrate_empty he hb) h
    rw [hreply, ht]
    exact ⟨hfetch, rfl, rfl⟩

end Sys2Proof.Machine
end
